-- ==== Sys2Proof/Word.lean ====
section
/-! DEFINITION. The word types of the block: a byte of the stream, of the record buffer or of the framebuffer, and a
two-bit tone code (00_scope.md R9: bit 7 is the most significant bit of a byte; everything is unsigned). -/

namespace Sys2Proof

/-- One byte: of the stream, of the record buffer, of the framebuffer, and an 8-bit tone (R9, R111). -/
abbrev Byte := BitVec 8

/-- One tone code, the two bits `(hi, lo)` of format PIX2 (R85). -/
abbrev Code := BitVec 2

end Sys2Proof
end

