-- ==== Sys2Proof/Config.lean ====
section
/-! DEFINITION. What an implementation fixes: the parameters of 00_scope.md R5 (open in the spec), the named protocol
constants, and the free values of the memories' contents after a RESET. -/

namespace Sys2Proof

/-- The parameters of one block (R5): `L` cells in a row, `H` rows, `N` payload bytes in a record.
They are no state of the block (R15); State carries them, and no operation writes them. -/
structure Config where
  /-- Row length in cells. -/
  L : Nat
  /-- Row count. -/
  H : Nat
  /-- Payload bytes in one record; R6 asks for `N = L`. -/
  N : Nat
  deriving DecidableEq, Repr

namespace Config

/-- The configurations a model accepts: `L >= 1`, `1 <= H <= 256` (R5, D23, U4) and `N = L` (R6, D1). -/
def ok (c : Config) : Bool :=
  decide (1 ≤ c.L) && decide (1 ≤ c.H) && decide (c.H ≤ 256) && decide (c.N = c.L)

/-- `T`, the length of a record: two sync bytes, the row index and the payload (R5). -/
def T (c : Config) : Nat := c.N + 3

/-- `P`, the number of framebuffer cells (R5). -/
def P (c : Config) : Nat := c.L * c.H

/-- `XW`, the width of the display plane in pixels (R5). -/
def XW (c : Config) : Nat := 4 * c.L

/-- `YH`, the height of the display plane in pixels (R5). -/
def YH (c : Config) : Nat := c.H

/-- R7's suggested instantiation, 32 cells by 64 rows.
DESIGN CHOICE (log entry 1): the spec leaves `L` and `H` open; only `State.reset` uses these numbers. -/
def suggested : Config := { L := 32, H := 64, N := 32 }

/-- The contents of framebuffer cell `a` after the `e`-th RESET: FB_INIT for the RESET that begins a run, "a fresh
unspecified value" after every later one (R38, R170, D10). A free value: nothing is known of it. Log entry 4. -/
opaque fbInit : Nat → Nat → Byte

/-- The contents of record-buffer slot `k` after the `e`-th RESET (R38, D11, U6: "any value"). A free value.
Log entry 5. -/
opaque rbInit : Nat → Nat → Byte

/-- Which of the agents that wait the lock goes to at the `n`-th grant the environment does not choose: "any one of them
may be granted" (R65, D6). A free value: nothing is known of it. Log entry 9. -/
opaque arbiter : Nat → Nat

end Config

/-- `SYNC_A`, the character 'Y' (R5), read as ASCII. PRESUMED (log entry 2): R8 marks the code as general knowledge. -/
def syncA : Byte := 0x59#8

/-- `SYNC_B`, the character '2' (R5), read as ASCII. PRESUMED (log entry 2). -/
def syncB : Byte := 0x32#8

end Sys2Proof
end

