-- ==== Sys2Proof/Syntax.lean ====
section
/-! DEFINITION. The operations of the block: one constructor of `Instr` for each row of spec/opcode_table.json, and the
places an operation can be read from. -/

namespace Sys2Proof

/-- One operation of the block, a row of the opcode table. -/
inductive Instr where
  /-- SYNC1_HIT (R121): byte SYNC_A at `cnt = 0`. -/
  | sync1Hit
  /-- SYNC1_SKIP (R122): any other byte at `cnt = 0`. -/
  | sync1Skip (b : Byte)
  /-- SYNC2_HIT (R123): byte SYNC_B at `cnt = 1`. -/
  | sync2Hit
  /-- SYNC2_RESTART (R124): byte SYNC_A at `cnt = 1`. -/
  | sync2Restart
  /-- SYNC2_DROP (R125): any other byte at `cnt = 1`. -/
  | sync2Drop (b : Byte)
  /-- FILL_STORE (R126): any byte at `2 <= cnt <= T-2`. -/
  | fillStore (b : Byte)
  /-- FILL_COMMIT (R127): any byte at `cnt = T-1`. -/
  | fillCommit (b : Byte)
  /-- ROWREC (R81, R129): a whole record, row index and payload. -/
  | rowrec (r : Byte) (payload : List Byte)
  /-- CELL_EXPAND (R84, R111): the four tones of a cell byte. -/
  | cellExpand (b : Byte)
  /-- PX_T0 (R144): a pixel of tone code 0. -/
  | pxT0
  /-- PX_T85 (R144): a pixel of tone code 1. -/
  | pxT85
  /-- PX_T170 (R144): a pixel of tone code 2. -/
  | pxT170
  /-- PX_T255 (R144): a pixel of tone code 3. -/
  | pxT255
  /-- RESET (R170). -/
  | reset
  /-- REDRAW (R140). -/
  | redraw
  /-- SNAPSHOT (R160). -/
  | snapshot
  /-- STOP (R178). -/
  | stop
  /-- REFRESH_REQ (R175). -/
  | refreshReq
  /-- TX_PLUS (R96, R184): '+' sent upstream. -/
  | txPlus
  /-- TX_M: 'M' sent upstream. -/
  | txM
  /-- TX_GT: '>' sent upstream. -/
  | txGt
  /-- TX_LT: '<' sent upstream. -/
  | txLt
  /-- TX_EXIT: 's' sent upstream on view exit. -/
  | txExit
  /-- TX_START: 'S','2' sent upstream at session start. -/
  | txStart
  deriving DecidableEq, Repr

/-- The decoder states of R22 and R89, with Filling split at its last byte. -/
inductive Phase where
  /-- AwaitingSync1: `cnt = 0`. -/
  | awaitingSync1
  /-- AwaitingSync2: `cnt = 1`. -/
  | awaitingSync2
  /-- Filling, not the last byte: `2 <= cnt <= T-2`. -/
  | filling
  /-- Filling, the last byte: `cnt = T-1`. -/
  | lastByte
  deriving DecidableEq, Repr

/-- The wires of format EVT (R91): they carry no bits. -/
inductive Wire where
  | reset | redraw | snapshot | stop | refreshReq
  deriving DecidableEq, Repr

/-- Where the bits of an operation are read from: the same byte means different operations at different places
(R80: formats BYTE, REC, CELL, PIX2, EVT, TXCTL). -/
inductive Channel where
  /-- Format BYTE: the stream input, in a decoder state. -/
  | stream (p : Phase)
  /-- Format REC: a whole record with `n` payload bytes on the stream. -/
  | record (n : Nat)
  /-- Format CELL: a framebuffer byte. -/
  | cell
  /-- Format PIX2: a tone code, in the low two bits of a byte whose other bits are zero. -/
  | tone
  /-- Format EVT: a wire. -/
  | wire (w : Wire)
  /-- Format TXCTL: the transmit side of the transport. -/
  | upstream
  deriving DecidableEq, Repr

/-- Why the decoder rejects bytes on a channel. The stream channel never rejects a byte (R92). -/
inductive DecodeError where
  /-- Too few bytes for the format. -/
  | truncated
  /-- The bytes do not begin with the sync marker of format REC. -/
  | notARecord
  /-- The byte is no tone code: a bit above bit 1 is set. -/
  | notAToneCode
  /-- The bytes are none of the six upstream sequences of R96. -/
  | notUpstream
  deriving DecidableEq, Repr

end Sys2Proof
end

