-- ==== Sys2Proof/WellFormed.lean ====
section
/-! DEFINITION. Which operations are well formed under a configuration: the operand conditions of the opcode table
("excludes" of SYNC1_SKIP and SYNC2_DROP) and the payload length of a record (R81). -/

namespace Sys2Proof

/-- The operand conditions of one row. SYNC1_SKIP excludes SYNC_A (R122), SYNC2_DROP excludes SYNC_A and SYNC_B (R125),
a record carries exactly `N` payload bytes (R81). Every other operand value is allowed (R92). -/
def Instr.wf (c : Config) : Instr → Bool
  | .sync1Skip b => decide (b ≠ syncA)
  | .sync2Drop b => decide (b ≠ syncA) && decide (b ≠ syncB)
  | .rowrec _ payload => decide (payload.length = c.N)
  | .sync1Hit | .sync2Hit | .sync2Restart | .fillStore _ | .fillCommit _ | .cellExpand _
  | .pxT0 | .pxT85 | .pxT170 | .pxT255
  | .reset | .redraw | .snapshot | .stop | .refreshReq
  | .txPlus | .txM | .txGt | .txLt | .txExit | .txStart => true

end Sys2Proof
end

