-- ==== Sys2Proof/Decode.lean ====
section
/-! DEFINITION. Reading an operation from the bytes of its format (30_encoding.md), total and rejecting by name, and
after it the encoder. The same byte is read differently on each channel, and on the stream in each decoder state (R89). -/

namespace Sys2Proof

/-- One stream byte in a decoder state: the seven rows of R89. -/
def decodeStream (p : Phase) (b : Byte) : Instr :=
  match p with
  | .awaitingSync1 => if b = syncA then .sync1Hit else .sync1Skip b
  | .awaitingSync2 =>
    if b = syncB then .sync2Hit else if b = syncA then .sync2Restart else .sync2Drop b
  | .filling => .fillStore b
  | .lastByte => .fillCommit b

/-- A whole record with `n` payload bytes (R81), first-arrived byte first. -/
def decodeRecord (n : Nat) (bs : List Byte) : Except DecodeError (Instr × List Byte) :=
  match bs with
  | a :: b :: r :: rest =>
    if a = syncA ∧ b = syncB then
      if n ≤ rest.length then .ok (.rowrec r (rest.take n), rest.drop n) else .error .truncated
    else .error .notARecord
  | _ => .error .truncated

/-- A tone code (R85). -/
def decodeTone (b : Byte) : Except DecodeError Instr :=
  if b = 0#8 then .ok .pxT0
  else if b = 1#8 then .ok .pxT85
  else if b = 2#8 then .ok .pxT170
  else if b = 3#8 then .ok .pxT255
  else .error .notAToneCode

/-- A wire event (R91). -/
def decodeWire (w : Wire) : Instr :=
  match w with
  | .reset => .reset
  | .redraw => .redraw
  | .snapshot => .snapshot
  | .stop => .stop
  | .refreshReq => .refreshReq

/-- An upstream sequence (R96, ASCII codes of R8). -/
def decodeUpstream (bs : List Byte) : Except DecodeError (Instr × List Byte) :=
  match bs with
  | [] => .error .truncated
  | b :: rest =>
    if b = 0x2B#8 then .ok (.txPlus, rest)
    else if b = 0x4D#8 then .ok (.txM, rest)
    else if b = 0x3E#8 then .ok (.txGt, rest)
    else if b = 0x3C#8 then .ok (.txLt, rest)
    else if b = 0x73#8 then .ok (.txExit, rest)
    else if b = 0x53#8 then
      match rest with
      | [] => .error .truncated
      | b2 :: rest2 => if b2 = 0x32#8 then .ok (.txStart, rest2) else .error .notUpstream
    else .error .notUpstream

/-- The decoder: the operation at the head of the bytes of a channel, and the bytes after it. -/
def decode (ch : Channel) (bs : List Byte) : Except DecodeError (Instr × List Byte) :=
  match ch with
  | .stream p =>
    match bs with
    | [] => .error .truncated
    | b :: rest => .ok (decodeStream p b, rest)
  | .record n => decodeRecord n bs
  | .cell =>
    match bs with
    | [] => .error .truncated
    | b :: rest => .ok (.cellExpand b, rest)
  | .tone =>
    match bs with
    | [] => .error .truncated
    | b :: rest =>
      match decodeTone b with
      | .ok i => .ok (i, rest)
      | .error e => .error e
  | .wire w => .ok (decodeWire w, bs)
  | .upstream => decodeUpstream bs

/-- The channel an operation is read from. -/
def channelOf (i : Instr) : Channel :=
  match i with
  | .sync1Hit => .stream .awaitingSync1
  | .sync1Skip _ => .stream .awaitingSync1
  | .sync2Hit => .stream .awaitingSync2
  | .sync2Restart => .stream .awaitingSync2
  | .sync2Drop _ => .stream .awaitingSync2
  | .fillStore _ => .stream .filling
  | .fillCommit _ => .stream .lastByte
  | .rowrec _ payload => .record payload.length
  | .cellExpand _ => .cell
  | .pxT0 => .tone
  | .pxT85 => .tone
  | .pxT170 => .tone
  | .pxT255 => .tone
  | .reset => .wire .reset
  | .redraw => .wire .redraw
  | .snapshot => .wire .snapshot
  | .stop => .wire .stop
  | .refreshReq => .wire .refreshReq
  | .txPlus => .upstream
  | .txM => .upstream
  | .txGt => .upstream
  | .txLt => .upstream
  | .txExit => .upstream
  | .txStart => .upstream

/-- The encoder: the bytes of an operation on its channel, from the tables of R81, R85, R89, R91 and R96. -/
def encode (i : Instr) : List Byte :=
  match i with
  | .sync1Hit => [0x59#8]
  | .sync1Skip b => [b]
  | .sync2Hit => [0x32#8]
  | .sync2Restart => [0x59#8]
  | .sync2Drop b => [b]
  | .fillStore b => [b]
  | .fillCommit b => [b]
  | .rowrec r payload => 0x59#8 :: 0x32#8 :: r :: payload
  | .cellExpand b => [b]
  | .pxT0 => [0b00#8]
  | .pxT85 => [0b01#8]
  | .pxT170 => [0b10#8]
  | .pxT255 => [0b11#8]
  | .reset => []
  | .redraw => []
  | .snapshot => []
  | .stop => []
  | .refreshReq => []
  | .txPlus => [0x2B#8]
  | .txM => [0x4D#8]
  | .txGt => [0x3E#8]
  | .txLt => [0x3C#8]
  | .txExit => [0x73#8]
  | .txStart => [0x53#8, 0x32#8]

/-- The bytes of a number of `nbits` bits as spec/opcode_table.json writes it: the first-arrived byte is the most
significant (TX_START is `0x5332`, 'S' first; ROWREC is `0x5932rr`, 'Y' first). Log entry 10. -/
def tableBytes (nbits w : Nat) : List Byte :=
  (List.range (nbits / 8)).map fun k => BitVec.ofNat 8 (w >>> (nbits - 8 * (k + 1)))

/-- The operation alone on its channel, nothing after it. -/
def decodeWhole (ch : Channel) (bs : List Byte) : Option Instr :=
  match decode ch bs with
  | .ok (i, []) => some i
  | .ok (_, _ :: _) => none
  | .error _ => none

/-- A byte of the table without its decoder state: the most specific row wins (the table's own priority), tone codes
and upstream bytes before the stream, SYNC2_HIT for SYNC_B, and any other byte as the stream reads it at `cnt = 0`.
Log entry 10. -/
def decodeTableByte (bs : List Byte) : Option Instr :=
  match decodeWhole .tone bs with
  | some i => some i
  | none =>
    match decodeWhole .upstream bs with
    | some i => some i
    | none =>
      if bs = [syncB] then decodeWhole (.stream .awaitingSync2) bs
      else decodeWhole (.stream .awaitingSync1) bs

/-- A word as the table numbers it, under a configuration. No bits: one of the five wires, `w` telling which in the
table's order (the table gives them no bits, so `w = 0` is RESET). Eight bits: `decodeTableByte`. Sixteen: upstream.
Twenty-four or more, in whole bytes: a record, padded with zero payload bytes. Log entry 10. -/
def decodeTableWordAt (c : Config) (nbits w : Nat) : Option Instr :=
  if nbits = 0 then
    match w with
    | 0 => some (decodeWire .reset)
    | 1 => some (decodeWire .redraw)
    | 2 => some (decodeWire .snapshot)
    | 3 => some (decodeWire .stop)
    | 4 => some (decodeWire .refreshReq)
    | _ => none
  else if nbits ≤ 8 then decodeTableByte (tableBytes 8 w)
  else if nbits = 16 then decodeWhole .upstream (tableBytes 16 w)
  else if 24 ≤ nbits ∧ nbits % 8 = 0 then
    decodeWhole (.record c.N) (tableBytes nbits w ++ List.replicate (c.T - nbits / 8) 0#8)
  else none

/-- The host's question: the operation the decoder reads from a word of the opcode table, for the configuration of
`State.reset`. -/
def decodeTableWord (nbits w : Nat) : Option Instr := decodeTableWordAt Config.suggested nbits w

end Sys2Proof
end

