-- ==== Sys2Proof/Machine/State.lean ====
section
/-! DEFINITION. The state of the block as plain data: the eight elements of 10_state.md R20, the request latches of
R152, R165 and R197, the transport's waiting bytes, the environment's schedule, and the outputs of the latest step. -/

namespace Sys2Proof.Machine

/-- A memory: the cells written since the latest RESET, addresses strictly rising. An address that is not listed holds
no known value; the machine's read of it gives a free value (`fbAt`, `rbAt`). Log entries 4 and 5. -/
abbrev Memory := List Host.Cell

/-- The lock owner (R26). -/
inductive Owner where
  | free | dec | ren | snap
  deriving DecidableEq, Repr

/-- One pixel of a plane, a beat `(pix_x, pix_y, pix_lit)` of the ports (R41, R155). -/
structure Pixel where
  x : Nat
  y : Nat
  lit : Bool
  deriving DecidableEq, Repr

/-- What the block emits (R32). -/
inductive Output where
  /-- FRAME(pix, border_en, overlay_en), one per REDRAW (R155); the pixels in pass order (R146). -/
  | frame (pix : List Pixel) (borderEn overlayEn : Bool)
  /-- One byte of a SNAPSHOT (R160). -/
  | snapByte (b : Byte)
  /-- End of a SNAPSHOT (R160). -/
  | snapDone
  /-- The pulse `refresh_req` (R175). -/
  | refreshReq
  /-- The four tones of CELL_EXPAND (R111), group 0 first. -/
  | tones (t0 t1 t2 t3 : Byte)
  /-- The tone of a PX row and whether its pixel is lit (R144). -/
  | pixel (tone : Byte) (lit : Bool)
  deriving DecidableEq, Repr

/-- What happens next, chosen by the environment or, for the grants, by the arbiter of the lock (R14, R65, R200).
Log entry 3. -/
inductive Event where
  /-- The transport has one more byte to offer (R171). -/
  | offer (b : Byte)
  /-- The transport loses its oldest waiting byte before acceptance (R172, R173). -/
  | lose
  /-- The oldest waiting byte is changed before acceptance (R172, R229). -/
  | corrupt (b : Byte)
  /-- A pulse on `redraw_tick` (R177, R197). -/
  | redrawTick
  /-- A pulse on `snap_req` (R177, R197). -/
  | snapTrigger
  /-- The lock goes to the decoder agent: one byte is accepted, if one is offered (R171). -/
  | grantDec
  /-- The lock goes to the decoder agent for a whole record, with no other agent between (ROWREC). -/
  | grantRecord
  /-- The lock goes to the renderer agent, if a tick is latched (R177). -/
  | grantRen
  /-- The lock goes to the snapshot agent, if a trigger is latched (R177). -/
  | grantSnap
  /-- The decoder agent ends its drain: REFRESH_REQ, if it is enabled (R175; the script line DRAIN, R97). -/
  | drain
  /-- The wire `stop` (R178). -/
  | stop
  /-- The wire `rst` (R170). -/
  | reset
  /-- The surrounding software transmits upstream bytes (R96, R184). -/
  | tx (bs : List Byte)
  /-- The renderer's table look-up of one cell byte, shown alone (R111). Log entry 7. -/
  | cellLookup (b : Byte)
  /-- The renderer's lit test of one tone code, shown alone (R144). Log entry 7. -/
  | toneLookup (b : Byte)
  deriving DecidableEq, Repr

/-- Faults: none. "The block raises no exception, fault or error signal of any kind, in any state, on any input"
(60_exceptions.md R190). -/
inductive Fault where
  deriving DecidableEq, Repr

/-- Why the model gives no next state. -/
inductive Refusal where
  /-- Raised by an arm of `exec` whose instruction has no meaning yet. Safe. None is left. -/
  | notModelled (mnemonic : String)
  /-- Raised by every operation under a configuration outside R5's bounds or with `N != L` (R6, D23, U4: "refuse").
  Safe. -/
  | badConfig
  deriving DecidableEq, Repr

/-- The state (R20), with the parameters it runs under. -/
structure State where
  /-- Parameters (R5); never written. -/
  cfg : Config
  /-- `rb`, the record buffer: slots written since RESET (R21). -/
  rb : Memory
  /-- `cnt`, the fill count (R22). -/
  cnt : Nat
  /-- `init`, the initialised flag (R23). -/
  init : Bool
  /-- `fb`, the framebuffer: cells written since RESET (R24). -/
  fb : Memory
  /-- `alt`, the alternation counter (R25). -/
  alt : Nat
  /-- `own`, the lock owner (R26). -/
  own : Owner
  /-- `dirty`, the pending-refresh flag (R27). -/
  dirty : Bool
  /-- `stopped`, the teardown flag (R28). -/
  stopped : Bool
  /-- The latched redraw tick, the port `redraw_busy` (R152, R197). -/
  redrawReq : Bool
  /-- The latched snapshot trigger (R165, R197). -/
  snapReq : Bool
  /-- Bytes offered and not yet accepted, oldest first; outside the block (R37, R173). -/
  rx : List Byte
  /-- The model's own: the environment's and the arbiter's choices to come (R14, R15); at its end the arbiter goes on by
  itself (`State.nextEvent`). -/
  sched : List Event
  /-- The model's own: what the latest step emitted (R32). -/
  out : List Output
  /-- The model's own: how many RESET operations there have been; the free values depend on it (R170, D10). -/
  resets : Nat
  /-- The model's own: how many grants `Config.arbiter` has chosen (R65); its free values depend on it. Log entry 9. -/
  grants : Nat
  deriving DecidableEq, Repr

/-- The state right after the RESET that begins a run (R38), for any configuration. -/
def State.resetWith (c : Config) : State where
  cfg := c
  rb := []
  cnt := 0
  init := false
  fb := []
  alt := 0
  own := .free
  dirty := false
  stopped := false
  redrawReq := false
  snapReq := false
  rx := []
  sched := []
  out := []
  resets := 0
  grants := 0

/-- The reset state of the host's interface: R38 under R7's suggested instantiation (log entry 1). -/
def State.reset : State := State.resetWith Config.suggested

end Sys2Proof.Machine
end

