-- ==== Sys2Proof/Machine/Operands.lean ====
section
/-! DEFINITION. Operand assembly (30_encoding.md section 2) and the two lookup tables (40_lut.md), as functions
(R114, D26). All arithmetic is exact natural arithmetic (R11, D12). -/

namespace Sys2Proof.Machine

/-- `MAXOFF`, the last valid row offset (R5, R59). -/
def maxOff (c : Config) : Nat := (c.H - 1) * c.L

/-- The row offset of a row index (R86; R127 steps 2 and 3): the exact product, clamped to 0 when it passes MAXOFF. -/
def rowOffset (c : Config) (r : Byte) : Nat :=
  let raw := r.toNat * c.L
  if raw > maxOff c then 0 else raw

/-- `XY`, the coordinate table: column and row of cell `i` (R110). -/
def xy (c : Config) (i : Nat) : Nat × Nat := (i % c.L, i / c.L)

/-- Group `k` of a cell byte, group 0 the most significant pair (R84, R52). -/
def group (b : Byte) (k : Nat) : Code := BitVec.ofNat 2 (b.toNat >>> (6 - 2 * k))

/-- The tone of a tone code (R85, R87). -/
def toneOf (c : Code) : Byte := BitVec.ofNat 8 (85 * c.toNat)

/-- `TD`, the tone decomposition table: the four tones of a byte, group 0 first (R111). -/
def td (b : Byte) : Byte × Byte × Byte × Byte :=
  (toneOf (group b 0), toneOf (group b 1), toneOf (group b 2), toneOf (group b 3))

/-- The display pixel of group `k` of the cell at `(x, y)` (R88, R143). -/
def pixelPos (x y k : Nat) : Nat × Nat := (4 * x + k, y)

end Sys2Proof.Machine
end

