-- ==== Sys2Proof/Machine/Flags.lean ====
section
/-! DEFINITION. The conditions the flags decide: the lit predicate, the enabling of the decoder agent and of
REFRESH_REQ, the decoder state a fill count stands for, and the level outputs. There are no condition codes (R35). -/

namespace Sys2Proof.Machine

/-- The lit predicate of a tone under the sampled counter (R144; R140 step 3). -/
def lit (t : Byte) (a : Nat) : Bool :=
  t == 0#8 || (t == 85#8 && a != 0) || (t == 170#8 && a == 0)

/-- The next value of the alternation counter (R150), the only wrap of the block (R11). -/
def altNext (a : Nat) : Nat := (a + 1) % 3

/-- The decoder state of a fill count (R22, R89). A count past `T-1`, which no run reaches (R39 item 1), falls under
the last branch of R120's function as long as it does not end at `T`. -/
def phase (c : Config) (cnt : Nat) : Phase :=
  if cnt = 0 then .awaitingSync1
  else if cnt = 1 then .awaitingSync2
  else if cnt + 1 = c.T then .lastByte
  else .filling

/-- `in_ready` at transaction level: the decoder agent has a step and the lock is free (R171, R178). -/
def State.inReady (s : State) : Bool := !s.stopped && s.own == .free

/-- `in_valid`: a byte is on offer (R171). -/
def State.inValid (s : State) : Bool := !s.rx.isEmpty

/-- REFRESH_REQ is enabled (R175): `dirty = 1`, `stopped = 0` and no byte on offer. -/
def State.refreshEnabled (s : State) : Bool := s.dirty && !s.stopped && !s.inValid

/-- The level output `init_o` (R182). -/
def State.initO (s : State) : Bool := s.init

/-- The level output `stopped_o` (R182). -/
def State.stoppedO (s : State) : Bool := s.stopped

/-- The level output `redraw_busy` (R152). -/
def State.redrawBusy (s : State) : Bool := s.redrawReq

end Sys2Proof.Machine
end

