-- ==== Sys2Proof/Machine/Ops.lean ====
section
/-! DEFINITION. The shared operations: the sparse memories, the framebuffer's two access primitives, the lock, and the
frame every operation of the block runs in. There is no exception entry and no return from one to share: the block has
none (R190, R202, R203). -/

namespace Sys2Proof.Machine

/-! ### Memories -/

/-- The byte listed at an address, if one is. -/
def Memory.lookup (m : Memory) (a : Nat) : Option Byte :=
  match m with
  | [] => none
  | (a', v) :: rest => if a = a' then some v else Memory.lookup rest a

/-- Write one byte, keeping the addresses strictly rising. -/
def Memory.store (m : Memory) (a : Nat) (v : Byte) : Memory :=
  match m with
  | [] => [(a, v)]
  | (a', v') :: rest =>
    if a < a' then (a, v) :: (a', v') :: rest
    else if a = a' then (a, v) :: rest
    else (a', v') :: Memory.store rest a v

/-- `MemWriteRow(off, bytes)`, the only write primitive of the framebuffer (R56, R10): byte `j` goes to `off + j`. -/
def Memory.writeRow (m : Memory) (off : Nat) (bytes : List Byte) : Memory :=
  match bytes with
  | [] => m
  | b :: rest => Memory.writeRow (Memory.store m off b) (off + 1) rest

/-- Every listed address is at least `lo`, and the addresses strictly rise. -/
def Memory.risesFrom (lo : Nat) (m : Memory) : Bool :=
  match m with
  | [] => true
  | (a, _) :: rest => decide (lo ≤ a) && Memory.risesFrom (a + 1) rest

/-- The canonical form of a memory. A listed cell holds a value, an unlisted one none, so no entry repeats what an
unlisted address holds. -/
def Memory.wf (m : Memory) : Bool := Memory.risesFrom 0 m

/-- Every listed address is below `n`. -/
def Memory.below (m : Memory) (n : Nat) : Bool := m.all fun p => decide (p.1 < n)

/-! ### Reading the framebuffer and the record buffer -/

/-- `fb[a]`: the byte written there since the latest RESET, else the unspecified contents of that RESET (R38, R170). -/
def fbAt (s : State) (a : Nat) : Byte := (Memory.lookup s.fb a).getD (Config.fbInit s.resets a)

/-- `rb[k]`: the byte stored there since the latest RESET, else the unspecified contents of that RESET (R21, R38). -/
def rbAt (s : State) (k : Nat) : Byte := (Memory.lookup s.rb k).getD (Config.rbInit s.resets k)

/-- `MemReadAll()`, the only read primitive of the framebuffer: all `P` cells, ascending, at one instant (R57). -/
def memReadAll (s : State) : List Byte := (List.range s.cfg.P).map (fbAt s)

/-! ### Named updates -/

/-- What the step emits; it replaces what the step before emitted. -/
def State.emit (s : State) (os : List Output) : State := { s with out := os }

/-- Take or give back the lock. -/
def State.setOwn (s : State) (o : Owner) : State := { s with own := o }

/-- `cnt <- n`. -/
def State.setCnt (s : State) (n : Nat) : State := { s with cnt := n }

/-- `rb[k] <- b`. -/
def State.storeSlot (s : State) (k : Nat) (b : Byte) : State := { s with rb := Memory.store s.rb k b }

/-- `dirty <- 1` (R174). -/
def State.markDirty (s : State) : State := { s with dirty := true }

/-- The payload held in the record buffer: `rb[3 .. T-1]` (R127 step 4). -/
def payloadOf (s : State) : List Byte := (List.range s.cfg.N).map fun j => rbAt s (3 + j)

/-- The commit, steps 1 to 5 of R127, after the last byte has been stored: the row is written, `cnt <- 0`,
`init <- 1`. -/
def State.commitRow (s : State) : State :=
  { s with
    fb := Memory.writeRow s.fb (rowOffset s.cfg (rbAt s 2)) (payloadOf s)
    cnt := 0
    init := true }

/-! ### The frame of an operation -/

/-- Every operation starts from "nothing emitted" and answers a next state (R190); a configuration the model must
refuse is refused (R6, U4). -/
def operate (s : State) (effect : State → State) : Host.Outcome State Fault Refusal :=
  if s.cfg.ok then .next (effect (s.emit [])) else .refused .badConfig

/-- Acquire the lock, run the body, release it (R64). While another owner holds it the agent waits: nothing happens
(R26, R37). -/
def underLock (agent : Owner) (s : State) (body : State → State) : State :=
  if s.own = .free then (body (s.setOwn agent)).setOwn .free else s

/-- One case of BYTE: it happens only while `stopped = 0` (R178) and where the case applies, under the lock (R64), and
it always sets `dirty` (R174). Where it is not enabled nothing happens. Log entry 8. -/
def byteCase (s : State) (applies : Bool) (body : State → State) : State :=
  if !s.stopped && applies then underLock .dec s fun s => (body s).markDirty else s

/-- `BYTE(b)` as R120 writes it, as one function of the fill count and the byte, without lock and enabling. -/
def byteBody (b : Byte) (s : State) : State :=
  if s.cnt = 0 then
    if b = syncA then (s.storeSlot 0 b).setCnt 1 else s
  else if s.cnt = 1 then
    if b = syncB then (s.storeSlot 1 b).setCnt 2
    else
      let s := s.setCnt 0
      if b = syncA then (s.storeSlot 0 b).setCnt 1 else s
  else
    let s := (s.storeSlot s.cnt b).setCnt (s.cnt + 1)
    if s.cnt = s.cfg.T then s.commitRow else s

/-- The atomic operation `BYTE(b)` (R120), enabled and locked. -/
def byteStep (b : Byte) (s : State) : State := byteCase s true (byteBody b)

end Sys2Proof.Machine
end

