-- ==== Sys2Proof/Machine/Control.lean ====
section
/-! DEFINITION. Host and control (44_host_control.md): RESET, STOP, REFRESH_REQ and the upstream bytes. -/

namespace Sys2Proof.Machine

/-- RESET (R170): the registers of R38, fresh unspecified memories, and nothing in flight. The transport's bytes and
the environment's choices are outside the block and stay. -/
def execReset (s : State) : Host.Outcome State Fault Refusal :=
  operate s fun s =>
    { State.resetWith s.cfg with rx := s.rx, sched := s.sched, resets := s.resets + 1, grants := s.grants }

/-- STOP (R178): `stopped <- 1`. -/
def execStop (s : State) : Host.Outcome State Fault Refusal :=
  operate s fun s => { s with stopped := true }

/-- REFRESH_REQ (R175): the pulse, and `dirty <- 0`, where it is enabled; no lock is needed. -/
def execRefreshReq (s : State) : Host.Outcome State Fault Refusal :=
  operate s fun s => if s.refreshEnabled then { s with dirty := false, out := [.refreshReq] } else s

/-- The surrounding software sends upstream bytes: the block does not see them (R184). -/
def upstreamEffect (s : State) : State := s

/-- TX_PLUS (R184): no effect on the block. -/
def execTxPlus (s : State) : Host.Outcome State Fault Refusal := operate s upstreamEffect

/-- TX_M (R184): no effect on the block. -/
def execTxM (s : State) : Host.Outcome State Fault Refusal := operate s upstreamEffect

/-- TX_GT (R184): no effect on the block. -/
def execTxGt (s : State) : Host.Outcome State Fault Refusal := operate s upstreamEffect

/-- TX_LT (R184): no effect on the block. -/
def execTxLt (s : State) : Host.Outcome State Fault Refusal := operate s upstreamEffect

/-- TX_EXIT (R184): no effect on the block; the matching event of the block is STOP (R185). -/
def execTxExit (s : State) : Host.Outcome State Fault Refusal := operate s upstreamEffect

/-- TX_START (R184, R185): no effect on the block. -/
def execTxStart (s : State) : Host.Outcome State Fault Refusal := operate s upstreamEffect

end Sys2Proof.Machine
end

