-- ==== Sys2Proof/Machine/Decoder.lean ====
section
/-! DEFINITION. The frame decoder (41_decoder.md): the seven cases of BYTE and the whole record. Each case is written
from its own rule; that together they are R120's function is a statement, not a definition. -/

namespace Sys2Proof.Machine

/-- SYNC1_HIT (R121): `rb[0] <- SYNC_A`, `cnt <- 1`. -/
def execSync1Hit (s : State) : Host.Outcome State Fault Refusal :=
  operate s fun s => byteCase s (s.cnt == 0) fun s => (s.storeSlot 0 syncA).setCnt 1

/-- SYNC1_SKIP (R122): nothing but `dirty`. -/
def execSync1Skip (b : Byte) (s : State) : Host.Outcome State Fault Refusal :=
  operate s fun s => byteCase s (s.cnt == 0 && b != syncA) fun s => s

/-- SYNC2_HIT (R123): `rb[1] <- SYNC_B`, `cnt <- 2`. -/
def execSync2Hit (s : State) : Host.Outcome State Fault Refusal :=
  operate s fun s => byteCase s (s.cnt == 1) fun s => (s.storeSlot 1 syncB).setCnt 2

/-- SYNC2_RESTART (R124): both buffered bytes are discarded and the same byte starts a record anew. -/
def execSync2Restart (s : State) : Host.Outcome State Fault Refusal :=
  operate s fun s => byteCase s (s.cnt == 1) fun s => ((s.setCnt 0).storeSlot 0 syncA).setCnt 1

/-- SYNC2_DROP (R125): both buffered bytes are discarded. -/
def execSync2Drop (b : Byte) (s : State) : Host.Outcome State Fault Refusal :=
  operate s fun s => byteCase s (s.cnt == 1 && b != syncB && b != syncA) fun s => s.setCnt 0

/-- FILL_STORE (R126): `rb[cnt] <- b`, `cnt <- cnt + 1`, whatever the byte. -/
def execFillStore (b : Byte) (s : State) : Host.Outcome State Fault Refusal :=
  operate s fun s =>
    byteCase s (decide (2 ≤ s.cnt) && s.cnt + 1 != s.cfg.T) fun s => (s.storeSlot s.cnt b).setCnt (s.cnt + 1)

/-- FILL_COMMIT (R127): the last payload byte is stored and the row is committed. -/
def execFillCommit (b : Byte) (s : State) : Host.Outcome State Fault Refusal :=
  operate s fun s =>
    byteCase s (decide (2 ≤ s.cnt) && s.cnt + 1 == s.cfg.T) fun s => (s.storeSlot s.cnt b).commitRow

/-- The bytes of a record (R81). -/
def recordBytes (r : Byte) (payload : List Byte) : List Byte := syncA :: syncB :: r :: payload

/-- ROWREC (R129): the record's `T` bytes consumed consecutively, each as one BYTE, from `cnt = 0` or `cnt = 1`. -/
def execRowrec (r : Byte) (payload : List Byte) (s : State) : Host.Outcome State Fault Refusal :=
  operate s fun s =>
    if s.cnt ≤ 1 ∧ payload.length = s.cfg.N then
      (recordBytes r payload).foldl (fun s b => byteStep b s) s
    else s

end Sys2Proof.Machine
end

