-- ==== Sys2Proof/Machine/Renderer.lean ====
section
/-! DEFINITION. The renderer (42_renderer.md): the redraw pass, and the two table look-ups it is made of, each a row of
the opcode table. -/

namespace Sys2Proof.Machine

/-- The four pixels of cell `i` holding byte `b`, for the sampled counter `a` (R140 steps 2 and 3). -/
def cellPixels (c : Config) (a : Nat) (b : Byte) (i : Nat) : List Pixel :=
  let (x, y) := xy c i
  let (t0, t1, t2, t3) := td b
  [(t0, 0), (t1, 1), (t2, 2), (t3, 3)].map fun p =>
    { x := (pixelPos x y p.2).1, y := (pixelPos x y p.2).2, lit := lit p.1 a }

/-- The plane of a pass over the cells, in pass order: cell index ascending, group ascending (R146), every pixel once
with its final value (R145). -/
def plane (c : Config) (a : Nat) (cells : List Byte) : List Pixel :=
  cells.zipIdx.flatMap fun p => cellPixels c a p.1 p.2

/-- The value of a display pixel in a plane: that of the beat with its coordinates. -/
def planeAt (pix : List Pixel) (X Y : Nat) : Option Bool :=
  (pix.find? fun p => p.x == X && p.y == Y).map (·.lit)

/-- REDRAW (R140): one pass under the lock over what `MemReadAll()`, `alt` and `init` are at that instant (R141); it
ends the latched tick (R152, R197) and advances `alt` (R150). -/
def execRedraw (s : State) : Host.Outcome State Fault Refusal :=
  operate s fun s => underLock .ren s fun s =>
    { s with
      alt := altNext s.alt
      redrawReq := false
      out := [.frame (plane s.cfg s.alt (memReadAll s)) true (!s.init)] }

/-- CELL_EXPAND (R111): the four tones of a cell byte; no state is written. -/
def execCellExpand (b : Byte) (s : State) : Host.Outcome State Fault Refusal :=
  operate s fun s => s.emit [.tones (td b).1 (td b).2.1 (td b).2.2.1 (td b).2.2.2]

/-- The lit test of one tone code under the counter, which the renderer reads under the lock (R64, R144). -/
def pixelOf (c : Code) (s : State) : State :=
  underLock .ren s fun s => s.emit [.pixel (toneOf c) (lit (toneOf c) s.alt)]

/-- PX_T0 (R144): tone 0, always lit. -/
def execPxT0 (s : State) : Host.Outcome State Fault Refusal := operate s (pixelOf 0#2)

/-- PX_T85 (R144): tone 85, lit when `alt` is not 0. -/
def execPxT85 (s : State) : Host.Outcome State Fault Refusal := operate s (pixelOf 1#2)

/-- PX_T170 (R144): tone 170, lit when `alt` is 0. -/
def execPxT170 (s : State) : Host.Outcome State Fault Refusal := operate s (pixelOf 2#2)

/-- PX_T255 (R144): tone 255, never lit. -/
def execPxT255 (s : State) : Host.Outcome State Fault Refusal := operate s (pixelOf 3#2)

end Sys2Proof.Machine
end

