-- ==== Sys2Proof/Machine/Snapshot.lean ====
section
/-! DEFINITION. The snapshot read port (43_snapshot_port.md). -/

namespace Sys2Proof.Machine

/-- The bytes of a copy in emission order: rows last to first, columns ascending (R160). -/
def snapshotOrder (c : Config) (copy : List Byte) : List Byte :=
  (List.range c.H).reverse.flatMap fun y => (copy.drop (y * c.L)).take c.L

/-- SNAPSHOT (R160): an atomic copy under the lock, emitted in reversed row order; only the latched trigger ends
(R165, R197). -/
def execSnapshot (s : State) : Host.Outcome State Fault Refusal :=
  operate s fun s => underLock .snap s fun s =>
    { s with
      snapReq := false
      out := (snapshotOrder s.cfg (memReadAll s)).map .snapByte ++ [.snapDone] }

end Sys2Proof.Machine
end

