-- ==== Sys2Proof/Machine/Dispatch.lean ====
section
/-! DEFINITION. Which meaning an operation has: one arm per constructor. -/

namespace Sys2Proof.Machine

def exec (i : Instr) (s : State) : Host.Outcome State Fault Refusal :=
  match i with
  -- 41_decoder.md
  | .sync1Hit => Sys2Proof.Machine.execSync1Hit s
  | .sync1Skip b => Sys2Proof.Machine.execSync1Skip b s
  | .sync2Hit => Sys2Proof.Machine.execSync2Hit s
  | .sync2Restart => Sys2Proof.Machine.execSync2Restart s
  | .sync2Drop b => Sys2Proof.Machine.execSync2Drop b s
  | .fillStore b => Sys2Proof.Machine.execFillStore b s
  | .fillCommit b => Sys2Proof.Machine.execFillCommit b s
  | .rowrec r payload => Sys2Proof.Machine.execRowrec r payload s
  -- 40_lut.md and 42_renderer.md
  | .cellExpand b => Sys2Proof.Machine.execCellExpand b s
  | .pxT0 => Sys2Proof.Machine.execPxT0 s
  | .pxT85 => Sys2Proof.Machine.execPxT85 s
  | .pxT170 => Sys2Proof.Machine.execPxT170 s
  | .pxT255 => Sys2Proof.Machine.execPxT255 s
  -- 44_host_control.md, 42_renderer.md and 43_snapshot_port.md
  | .reset => Sys2Proof.Machine.execReset s
  | .redraw => Sys2Proof.Machine.execRedraw s
  | .snapshot => Sys2Proof.Machine.execSnapshot s
  | .stop => Sys2Proof.Machine.execStop s
  | .refreshReq => Sys2Proof.Machine.execRefreshReq s
  | .txPlus => Sys2Proof.Machine.execTxPlus s
  | .txM => Sys2Proof.Machine.execTxM s
  | .txGt => Sys2Proof.Machine.execTxGt s
  | .txLt => Sys2Proof.Machine.execTxLt s
  | .txExit => Sys2Proof.Machine.execTxExit s
  | .txStart => Sys2Proof.Machine.execTxStart s

end Sys2Proof.Machine
end

