-- ==== Sys2Proof/Machine/Fetch.lean ====
section
/-! DEFINITION. From the environment's next choice to an operation: what each event asks for, when it is granted, and
what the events that are no operation do to the interface (10_state.md R41, 44_host_control.md, 60_exceptions.md R197),
and what the arbiter of the lock does by itself (20_memory.md R65). Also the run of BYTE operations that statements speak
of, and the placing of one operation for the host. -/

namespace Sys2Proof.Machine

/-- What a stream byte is in a state (R89). -/
def streamInstr (s : State) (b : Byte) : Instr := decodeStream (phase s.cfg s.cnt) b

/-- Read an operation from the offered bytes: the bytes it is made of are accepted. -/
def State.accept (s : State) (ch : Channel) : Option (Instr × State) :=
  match decode ch s.rx with
  | .ok (i, rest) => some (i, { s with rx := rest })
  | .error _ => none

/-- Read an operation from bytes that are not the stream: it must be the whole of them. -/
def State.apart (s : State) (ch : Channel) (bs : List Byte) : Option (Instr × State) :=
  (decodeWhole ch bs).map fun i => (i, s)

/-- The operation an event brings, and the state it is to run in; none where the event is no operation or the
operation cannot be granted now (no byte offered, no request latched, the decoder stopped, the lock held). -/
def fetchEvent (e : Event) (s : State) : Option (Instr × State) :=
  match e with
  | .grantDec => if s.inReady then s.accept (.stream (phase s.cfg s.cnt)) else none
  | .grantRecord => if s.inReady && decide (s.cnt ≤ 1) then s.accept (.record s.cfg.N) else none
  | .grantRen => if s.redrawReq && s.own == .free then s.apart (.wire .redraw) [] else none
  | .grantSnap => if s.snapReq && s.own == .free then s.apart (.wire .snapshot) [] else none
  | .drain => s.apart (.wire .refreshReq) []
  | .stop => s.apart (.wire .stop) []
  | .reset => s.apart (.wire .reset) []
  | .tx bs => s.apart .upstream bs
  | .cellLookup b => s.apart .cell [b]
  | .toneLookup b => s.apart .tone [b]
  | .offer _ => none
  | .lose => none
  | .corrupt _ => none
  | .redrawTick => none
  | .snapTrigger => none

/-- What an event does to the interface where it brings no operation: a byte is offered, lost or changed, a request is
latched, or dropped because one is latched already (R152, R165), and a grant nobody can use passes. -/
def interfaceEffect (e : Event) (s : State) : State :=
  match e with
  | .offer b => { s with rx := s.rx ++ [b] }
  | .lose => { s with rx := s.rx.tail }
  | .corrupt b =>
    match s.rx with
    | [] => s
    | _ :: rest => { s with rx := b :: rest }
  | .redrawTick => if s.redrawReq then s else { s with redrawReq := true }
  | .snapTrigger => if s.snapReq then s else { s with snapReq := true }
  | .grantDec => s
  | .grantRecord => s
  | .grantRen => s
  | .grantSnap => s
  | .drain => s
  | .stop => s
  | .reset => s
  | .tx _ => s
  | .cellLookup _ => s
  | .toneLookup _ => s

/-- The agents that wait for a free lock, each as the grant that serves it: the decoder agent with a byte on offer, the
renderer and the snapshot agent with a request latched (R65, R66, R171, R177). -/
def State.waiting (s : State) : List Event :=
  if s.own = .free then
    (if s.stopped = false ∧ s.rx ≠ [] then [.grantDec] else []) ++
      (if s.redrawReq then [.grantRen] else []) ++ (if s.snapReq then [.grantSnap] else [])
  else []

/-- One of those that wait, by an arbitrary number; none where none waits (R65). -/
def arbitrate (ws : List Event) (choice : Nat) : Option Event :=
  match ws with
  | [] => none
  | [e] => some e
  | e :: e' :: rest => (e :: e' :: rest)[choice % (rest.length + 2)]?

/-- The next event, and the state with the choice taken: the schedule's first; at its end, a grant to one of the agents
that wait, so that no agent that keeps requesting waits for ever (R65, R236). Log entry 9. -/
def State.nextEvent (s : State) : Option (Event × State) :=
  match s.sched with
  | e :: es => some (e, { s with sched := es })
  | [] => (arbitrate s.waiting (Config.arbiter s.grants)).map fun e => (e, { s with grants := s.grants + 1 })

/-- One step. With nothing scheduled and nobody waiting the block is idle: all state stays (R193, R210). -/
def runEvent (s : State) : Host.Outcome State Fault Refusal :=
  match s.nextEvent with
  | none => operate s fun s => s
  | some (e, s1) =>
    match fetchEvent e s1 with
    | some (i, s2) => exec i s2
    | none => operate s1 (interfaceEffect e)

/-- Stream bytes consumed one after another, each as the operation it is in the state it meets (R89). -/
def byteRun (bs : List Byte) (s : State) : Host.Outcome State Fault Refusal :=
  match bs with
  | [] => .next s
  | b :: rest =>
    match exec (streamInstr s b) s with
    | .next s' => byteRun rest s'
    | .fault r => .fault r
    | .refused r => .refused r

/-- Put an event first in the environment's schedule. -/
def State.schedule (s : State) (e : Event) : State := { s with sched := e :: s.sched }

/-- The decoder agent at a fill count with bytes offered first, able to take them. -/
def State.offerAt (s : State) (cnt : Nat) (bs : List Byte) : State :=
  { s with cnt := cnt, rx := bs ++ s.rx, stopped := false, own := .free }

/-- A state whose very next step runs the operation: the event that brings it stands first, and whatever that event
needs to be granted is set. -/
def State.place (s : State) (i : Instr) : State :=
  match i with
  | .sync1Hit => (s.offerAt 0 (encode i)).schedule .grantDec
  | .sync1Skip _ => (s.offerAt 0 (encode i)).schedule .grantDec
  | .sync2Hit => (s.offerAt 1 (encode i)).schedule .grantDec
  | .sync2Restart => (s.offerAt 1 (encode i)).schedule .grantDec
  | .sync2Drop _ => (s.offerAt 1 (encode i)).schedule .grantDec
  | .fillStore _ => (s.offerAt 2 (encode i)).schedule .grantDec
  | .fillCommit _ => (s.offerAt (s.cfg.T - 1) (encode i)).schedule .grantDec
  | .rowrec _ _ => (s.offerAt 0 (encode i)).schedule .grantRecord
  | .cellExpand b => s.schedule (.cellLookup b)
  | .pxT0 => State.schedule { s with own := .free } (.toneLookup 0#8)
  | .pxT85 => State.schedule { s with own := .free } (.toneLookup 1#8)
  | .pxT170 => State.schedule { s with own := .free } (.toneLookup 2#8)
  | .pxT255 => State.schedule { s with own := .free } (.toneLookup 3#8)
  | .reset => s.schedule .reset
  | .redraw => State.schedule { s with redrawReq := true, own := .free } .grantRen
  | .snapshot => State.schedule { s with snapReq := true, own := .free } .grantSnap
  | .stop => s.schedule .stop
  | .refreshReq => State.schedule { s with dirty := true, stopped := false, rx := [] } .drain
  | .txPlus => s.schedule (.tx (encode i))
  | .txM => s.schedule (.tx (encode i))
  | .txGt => s.schedule (.tx (encode i))
  | .txLt => s.schedule (.tx (encode i))
  | .txExit => s.schedule (.tx (encode i))
  | .txStart => s.schedule (.tx (encode i))

/-- A word of the opcode table placed for the next step; a word that is no operation changes nothing. -/
def placeWord (s : State) (nbits w : Nat) : State :=
  match decodeTableWordAt s.cfg nbits w with
  | some i => s.place i
  | none => s

end Sys2Proof.Machine
end

