-- ==== Sys2Proof/Machine/Step.lean ====
section
/-! DEFINITION. One step of the machine: the environment's next choice carried out, or, where it has none left, a grant
of the arbiter. -/

namespace Sys2Proof.Machine

/-- One step: the operation the next event of the schedule brings, or that event's effect on the interface; with no
event left, a grant to an agent that waits (R65). -/
def step (s : State) : Host.Outcome State Fault Refusal := runEvent s

/-- The same state with one word of the opcode table as its next operation (log entry 10). -/
def State.withFetchWord (s : State) (nbits w : Nat) : State := placeWord s nbits w

end Sys2Proof.Machine
end

