-- ==== Sys2Proof/Machine/Script.lean ====
section
/-! DEFINITION. The event-script notation (30_encoding.md R97, R98, D22): each line as the events it stands for, in lock
order. CONFIG and FBINIT are not lines here: they are the state a script starts from. -/

namespace Sys2Proof.Machine

/-- One line of a script. -/
inductive ScriptLine where
  | reset
  | rx (bytes : List Byte)
  | redraw
  | snap
  | drain
  | stop
  /-- `ROW r : p0 p1 ...` (R98). -/
  | row (r : Byte) (payload : List Byte)
  /-- `FRAME rows`: one ROW for each row given, in ascending index from 0 (R98). -/
  | frame (rows : List (List Byte))
  | noise (bytes : List Byte)
  /-- `REDRAW x n` (R98). -/
  | redraws (n : Nat)
  deriving DecidableEq, Repr

/-- `RX h0 h1 ...`: one BYTE for each listed byte, left to right (R97). -/
def rxEvents (bytes : List Byte) : List Event := bytes.flatMap fun b => [.offer b, .grantDec]

/-- `REDRAW`: a tick, and the lock for the renderer. -/
def redrawEvents : List Event := [.redrawTick, .grantRen]

/-- The events of a line. -/
def ScriptLine.events (l : ScriptLine) : List Event :=
  match l with
  | .reset => [.reset]
  | .rx bytes => rxEvents bytes
  | .redraw => redrawEvents
  | .snap => [.snapTrigger, .grantSnap]
  | .drain => [.drain]
  | .stop => [.stop]
  | .row r payload => rxEvents (recordBytes r payload)
  | .frame rows => rows.zipIdx.flatMap fun p => rxEvents (recordBytes (BitVec.ofNat 8 p.2) p.1)
  | .noise bytes => rxEvents bytes
  | .redraws n => (List.replicate n redrawEvents).flatten

/-- The events of a script, line by line. -/
def scriptEvents (ls : List ScriptLine) : List Event := ls.flatMap ScriptLine.events

/-- The steps a script takes, one for each event. -/
def scriptSteps (ls : List ScriptLine) : Nat := (scriptEvents ls).length

end Sys2Proof.Machine
end

