-- ==== Sys2Proof/Safety.lean ====
section
/-! DEFINITION. What counts as a safe run, in the terms the statements use: the enabling conditions of the agents and
the invariant of 10_state.md R39 as it reads in one state. The block has no fault to be safe from (R190). -/

namespace Sys2Proof.Machine

/-- The configuration is accepted (R5, R6) and nobody holds the lock: any agent that asks gets it (R64). -/
abbrev State.LockFree (s : State) : Prop := s.cfg.ok = true ∧ s.own = .free

/-- The decoder agent has a step: additionally `stopped = 0` (R178). -/
abbrev State.Ready (s : State) : Prop := s.cfg.ok = true ∧ s.own = .free ∧ s.stopped = false

/-- R39 between operations, as far as one state can show it, with the canonical form of the two memories. -/
structure State.Inv (s : State) : Prop where
  /-- R5, R6. -/
  cfgOk : s.cfg.ok = true
  /-- R39 item 1. -/
  cntInRange : s.cnt < s.cfg.T
  /-- R39 item 2. -/
  altInRange : s.alt < 3
  /-- R39 item 8. -/
  lockFree : s.own = .free
  /-- The framebuffer's canonical form. -/
  fbWf : Memory.wf s.fb = true
  /-- The record buffer's canonical form. -/
  rbWf : Memory.wf s.rb = true
  /-- No address outside `0 .. P-1` is ever written (R59). -/
  fbInRange : Memory.below s.fb s.cfg.P = true
  /-- The record buffer has `T` slots (R21). -/
  rbInRange : Memory.below s.rb s.cfg.T = true
  /-- R39 item 7: the cells of a row are all initial or all written. -/
  rowsWhole : ∀ y, y < s.cfg.H →
    (∀ x, x < s.cfg.L → (Memory.lookup s.fb (y * s.cfg.L + x)).isSome = true) ∨
    (∀ x, x < s.cfg.L → Memory.lookup s.fb (y * s.cfg.L + x) = none)
  /-- R39 item 4: `init = 1` exactly when a record has been committed since RESET. -/
  initIffCommitted : s.init = true ↔ s.fb ≠ []
  /-- R39 item 5: past the first sync byte, slot 0 holds it. -/
  syncAStored : 1 ≤ s.cnt → Memory.lookup s.rb 0 = some syncA
  /-- R39 item 5: past the second sync byte, slot 1 holds it. -/
  syncBStored : 2 ≤ s.cnt → Memory.lookup s.rb 1 = some syncB
  /-- R39 item 5: every slot below the fill count has been written. -/
  slotsStored : ∀ k, k < s.cnt → (Memory.lookup s.rb k).isSome = true

/-- A run is safe when none of its steps is a fault or a refusal. -/
def State.SafeFor (s : State) (n : Nat) : Prop := ∃ t, Sys2Proof.core.run n s = .next t

end Sys2Proof.Machine
end

