-- ==== Sys2Proof/Certificates/Slice0/Obligations.lean ====
section
/-! DEFINITION. The statements for the provers, file by file of spec/. Each docstring names the rule it formalises, or
says that it is the model's. Nothing here depends on a value of a free value, nor on the dimensions of `State.reset`. -/

open Sys2Proof Sys2Proof.Machine

/-! ### 30_encoding.md -/

/-- Decode and encode agree: reading back the bytes of a well-formed operation on its channel gives the operation, and
leaves what follows it (R81, R84, R85, R89, R91, R96). -/
def Obligations.DecodeEncodeRoundTrip : Prop :=
  ∀ (c : Config) (i : Instr) (rest : List Byte), i.wf c = true →
    decode (channelOf i) (encode i ++ rest) = .ok (i, rest)

/-- The other direction: whatever the decoder reads is a well-formed operation of that channel, and the bytes it
consumed are exactly the encoding of that operation (no two byte strings are read as one operation). -/
def Obligations.DecodedBytesAreTheEncoding : Prop :=
  ∀ (c : Config) (ch : Channel) (bs rest : List Byte) (i : Instr),
    (∀ n, ch = .record n → n = c.N) → decode ch bs = .ok (i, rest) →
      bs = encode i ++ rest ∧ channelOf i = ch ∧ i.wf c = true

/-- Words written out from the spec's tables decode to their operations: the sync bytes of R81 and R89, a record of two
payload bytes (R81), the cell byte 0x1B (R84), the four tone codes (R85), the five wires (R91), the six upstream
sequences (R96). -/
def Obligations.SpecWordsDecode : Prop :=
  decode (.stream .awaitingSync1) [0b01011001#8] = .ok (.sync1Hit, []) ∧
  decode (.stream .awaitingSync1) [0b00110010#8] = .ok (.sync1Skip 0x32#8, []) ∧
  decode (.stream .awaitingSync2) [0b00110010#8] = .ok (.sync2Hit, []) ∧
  decode (.stream .awaitingSync2) [0b01011001#8] = .ok (.sync2Restart, []) ∧
  decode (.stream .awaitingSync2) [0b00110011#8] = .ok (.sync2Drop 0x33#8, []) ∧
  decode (.stream .filling) [0b01011001#8] = .ok (.fillStore 0x59#8, []) ∧
  decode (.stream .lastByte) [0b00110010#8] = .ok (.fillCommit 0x32#8, []) ∧
  decode (.record 2) [0b01011001#8, 0b00110010#8, 1#8, 0xAA#8, 0x55#8] = .ok (.rowrec 1#8 [0xAA#8, 0x55#8], []) ∧
  decode .cell [0b00011011#8] = .ok (.cellExpand 0x1B#8, []) ∧
  decode .tone [0b00#8] = .ok (.pxT0, []) ∧
  decode .tone [0b01#8] = .ok (.pxT85, []) ∧
  decode .tone [0b10#8] = .ok (.pxT170, []) ∧
  decode .tone [0b11#8] = .ok (.pxT255, []) ∧
  decode (.wire .reset) [] = .ok (.reset, []) ∧
  decode (.wire .redraw) [] = .ok (.redraw, []) ∧
  decode (.wire .snapshot) [] = .ok (.snapshot, []) ∧
  decode (.wire .stop) [] = .ok (.stop, []) ∧
  decode (.wire .refreshReq) [] = .ok (.refreshReq, []) ∧
  decode .upstream [0b00101011#8] = .ok (.txPlus, []) ∧
  decode .upstream [0b01001101#8] = .ok (.txM, []) ∧
  decode .upstream [0b00111110#8] = .ok (.txGt, []) ∧
  decode .upstream [0b00111100#8] = .ok (.txLt, []) ∧
  decode .upstream [0b01110011#8] = .ok (.txExit, []) ∧
  decode .upstream [0b01010011#8, 0b00110010#8] = .ok (.txStart, [])

/-- R89: which of the seven operations a byte is, for every fill count `0 .. T-1` and every byte. -/
def Obligations.StreamByteClassification : Prop :=
  ∀ (c : Config) (cnt : Nat) (b : Byte), c.ok = true → cnt < c.T →
    (cnt = 0 → b = 0x59#8 → decodeStream (phase c cnt) b = .sync1Hit) ∧
    (cnt = 0 → b ≠ 0x59#8 → decodeStream (phase c cnt) b = .sync1Skip b) ∧
    (cnt = 1 → b = 0x32#8 → decodeStream (phase c cnt) b = .sync2Hit) ∧
    (cnt = 1 → b = 0x59#8 → decodeStream (phase c cnt) b = .sync2Restart) ∧
    (cnt = 1 → b ≠ 0x32#8 → b ≠ 0x59#8 → decodeStream (phase c cnt) b = .sync2Drop b) ∧
    (2 ≤ cnt → cnt ≤ c.T - 2 → decodeStream (phase c cnt) b = .fillStore b) ∧
    (cnt = c.T - 1 → decodeStream (phase c cnt) b = .fillCommit b)

/-- R86 (that the product is exact is the spec's decision D12): the row offset is the exact product where that is at
most MAXOFF and 0 otherwise, and the test is the same as `r >= H`. -/
def Obligations.RowOffsetAssembly : Prop :=
  ∀ (c : Config) (r : Byte), c.ok = true →
    rowOffset c r = (if r.toNat * c.L ≤ (c.H - 1) * c.L then r.toNat * c.L else 0) ∧
    (r.toNat * c.L > (c.H - 1) * c.L ↔ r.toNat ≥ c.H)

/-! ### 40_lut.md -/

/-- R110: `XY` is the column and the row of a cell, a bijection between `0 .. P-1` and the grid, with inverse `y * L +
x`. -/
def Obligations.CoordinateTableBijection : Prop :=
  ∀ (c : Config), c.ok = true →
    (∀ i, i < c.P → xy c i = (i % c.L, i / c.L) ∧
      (xy c i).1 < c.L ∧ (xy c i).2 < c.H ∧ (xy c i).2 * c.L + (xy c i).1 = i) ∧
    (∀ x y, x < c.L → y < c.H → y * c.L + x < c.P ∧ xy c (y * c.L + x) = (x, y))

/-- The tones of R111: CELL_EXPAND answers the four tones `85 * c_k` of the four two-bit groups, the most significant
first, and changes no other field. (That the look-up is an operation of its own, answering in `out`, is the model's
choice, log entry 7.) -/
def Obligations.CellExpandEffect : Prop :=
  ∀ (s : State) (b : Byte), s.cfg.ok = true →
    exec (.cellExpand b) s = .next { s with out :=
      [.tones (BitVec.ofNat 8 (85 * ((b.toNat >>> 6) % 4))) (BitVec.ofNat 8 (85 * ((b.toNat >>> 4) % 4)))
        (BitVec.ofNat 8 (85 * ((b.toNat >>> 2) % 4))) (BitVec.ofNat 8 (85 * (b.toNat % 4)))] }

/-- R113: every byte has four tones of the set 0, 85, 170, 255; the byte is read back from their codes; and the four are
equal exactly for the four bytes 0x00, 0x55, 0xAA, 0xFF. -/
def Obligations.ToneTableRoundTrip : Prop :=
  ∀ b : Byte,
    let t := td b
    (∀ x ∈ [t.1, t.2.1, t.2.2.1, t.2.2.2], x ∈ [0#8, 85#8, 170#8, 255#8]) ∧
    64 * (t.1.toNat / 85) + 16 * (t.2.1.toNat / 85) + 4 * (t.2.2.1.toNat / 85) + t.2.2.2.toNat / 85 = b.toNat ∧
    ((t.1 = t.2.1 ∧ t.2.1 = t.2.2.1 ∧ t.2.2.1 = t.2.2.2) ↔ b ∈ [0x00#8, 0x55#8, 0xAA#8, 0xFF#8])

/-! ### 41_decoder.md -/

/-- R121: SYNC1_HIT stores SYNC_A in slot 0 and sets `cnt` to 1, and besides `dirty` nothing else changes; it is also
the path SYNC2_RESTART takes after the discard. -/
def Obligations.Sync1HitEffect : Prop :=
  ∀ s : State, s.Ready →
    (s.cnt = 0 → exec .sync1Hit s =
      .next { s with rb := Memory.store s.rb 0 0x59#8, cnt := 1, dirty := true, out := [] }) ∧
    (s.cnt = 1 → exec .sync2Restart s = exec .sync1Hit { s with cnt := 0 })

/-- R122: SYNC1_SKIP changes nothing but `dirty`, whatever the byte (SYNC_B too) as long as it is not SYNC_A. -/
def Obligations.Sync1SkipEffect : Prop :=
  ∀ (s : State) (b : Byte), s.Ready → s.cnt = 0 → b ≠ 0x59#8 →
    exec (.sync1Skip b) s = .next { s with dirty := true, out := [] }

/-- R123: SYNC2_HIT stores SYNC_B in slot 1 and sets `cnt` to 2. -/
def Obligations.Sync2HitEffect : Prop :=
  ∀ s : State, s.Ready → s.cnt = 1 →
    exec .sync2Hit s =
      .next { s with rb := Memory.store s.rb 1 0x32#8, cnt := 2, dirty := true, out := [] }

/-- R124: SYNC2_RESTART leaves `cnt` at 1 and slot 0 holding SYNC_A; a run of SYNC_A of any length leaves `cnt` at 1
throughout, and SYNC_B after it gives `cnt = 2`. -/
def Obligations.Sync2RestartEffect : Prop :=
  ∀ s : State, s.Ready → s.cnt = 1 →
    exec .sync2Restart s =
      .next { s with rb := Memory.store s.rb 0 0x59#8, cnt := 1, dirty := true, out := [] } ∧
    (∀ n : Nat, ∃ t, byteRun (List.replicate n 0x59#8) s = .next t ∧ t.cnt = 1) ∧
    (∀ n : Nat, ∃ t, byteRun (List.replicate n 0x59#8 ++ [0x32#8]) s = .next t ∧ t.cnt = 2)

/-- R125: SYNC2_DROP sets `cnt` to 0 and changes nothing more (slot 0 keeps its stale byte): it is SYNC1_SKIP after the
discard. -/
def Obligations.Sync2DropEffect : Prop :=
  ∀ (s : State) (b : Byte), s.Ready → s.cnt = 1 → b ≠ 0x32#8 → b ≠ 0x59#8 →
    exec (.sync2Drop b) s = .next { s with cnt := 0, dirty := true, out := [] } ∧
    exec (.sync2Drop b) s = exec (.sync1Skip b) { s with cnt := 0 }

/-- R126: FILL_STORE stores any byte at slot `cnt` and advances `cnt`; with `L = 1` the only one is at `cnt = 2`. -/
def Obligations.FillStoreEffect : Prop :=
  ∀ (s : State) (b : Byte), s.Ready → 2 ≤ s.cnt → s.cnt ≤ s.cfg.T - 2 →
    exec (.fillStore b) s =
      .next { s with rb := Memory.store s.rb s.cnt b, cnt := s.cnt + 1, dirty := true, out := [] } ∧
    (s.cfg.L = 1 → s.cnt = 2)

/-- R127, in data: FILL_COMMIT stores the last byte, writes the row at the clamped offset of slot 2 with slots `3 ..
T-1`, and sets `cnt`, `init` and `dirty`; nothing else changes. -/
def Obligations.FillCommitEffect : Prop :=
  ∀ (s : State) (b : Byte), s.Ready → s.cnt = s.cfg.T - 1 →
    let rb' := Memory.store s.rb (s.cfg.T - 1) b
    let r := rbAt { s with rb := rb' } 2
    let off := if r.toNat * s.cfg.L > (s.cfg.H - 1) * s.cfg.L then 0 else r.toNat * s.cfg.L
    exec (.fillCommit b) s =
      .next { s with
        rb := rb'
        fb := Memory.writeRow s.fb off ((List.range s.cfg.N).map fun j => rbAt { s with rb := rb' } (3 + j))
        cnt := 0
        init := true
        dirty := true
        out := [] }

/-- R127, through the read of one byte: the row of the clamped index holds the payload in arrival order, and every other
address, the ones past `P - 1` among them, reads as before. The address stored to is computed with the meaning's own
`rowOffset` from slot 2. -/
def Obligations.FillCommitFrame : Prop :=
  ∀ (s : State) (b : Byte), s.Ready → s.cnt = s.cfg.T - 1 →
    ∃ t, exec (.fillCommit b) s = .next t ∧
      (∀ j, j < s.cfg.N → fbAt t (rowOffset s.cfg (rbAt s 2) + j) =
        if j = s.cfg.N - 1 then b else rbAt s (3 + j)) ∧
      (∀ a, (a < rowOffset s.cfg (rbAt s 2) ∨ rowOffset s.cfg (rbAt s 2) + s.cfg.N ≤ a) → fbAt t a = fbAt s a) ∧
      t.cfg = s.cfg ∧ t.alt = s.alt ∧ t.own = s.own ∧ t.stopped = s.stopped ∧ t.redrawReq = s.redrawReq ∧
      t.snapReq = s.snapReq ∧ t.rx = s.rx ∧ t.sched = s.sched ∧ t.resets = s.resets ∧ t.grants = s.grants

/-- R131: a commit with `r >= H` lands in row 0, and no commit ever changes a byte outside `0 .. P-1`. -/
def Obligations.ClampProperty : Prop :=
  ∀ (s : State) (b : Byte), s.Ready → s.cnt = s.cfg.T - 1 →
    ∃ t, exec (.fillCommit b) s = .next t ∧
      (s.cfg.H ≤ (rbAt s 2).toNat →
        (∀ x, x < s.cfg.L → fbAt t x = if x = s.cfg.L - 1 then b else rbAt s (3 + x)) ∧
        (∀ a, s.cfg.L ≤ a → fbAt t a = fbAt s a)) ∧
      (∀ a, s.cfg.P ≤ a → fbAt t a = fbAt s a)

/-- R120: the seven operations, each chosen by the fill count and the byte, are together the one function BYTE(b). -/
def Obligations.SevenCasesAreTheByteFunction : Prop :=
  ∀ (s : State) (b : Byte), s.Ready →
    exec (streamInstr s b) s = .next { byteBody b s with dirty := true, out := [] }

/-- R136: the complete transition table of `cnt`. -/
def Obligations.FillCountTransitions : Prop :=
  ∀ (s : State) (b : Byte), s.Ready → s.cnt < s.cfg.T →
    ∃ t, exec (streamInstr s b) s = .next t ∧
      (s.cnt = 0 → b = 0x59#8 → t.cnt = 1) ∧
      (s.cnt = 0 → b ≠ 0x59#8 → t.cnt = 0) ∧
      (s.cnt = 1 → b = 0x32#8 → t.cnt = 2) ∧
      (s.cnt = 1 → b = 0x59#8 → t.cnt = 1) ∧
      (s.cnt = 1 → b ≠ 0x32#8 → b ≠ 0x59#8 → t.cnt = 0) ∧
      (2 ≤ s.cnt → s.cnt ≤ s.cfg.T - 2 → t.cnt = s.cnt + 1) ∧
      (s.cnt = s.cfg.T - 1 → t.cnt = 0)

/-- R129, the record theorem: from `cnt = 0` or `cnt = 1` a record leaves its payload in the row of its index (row 0
when the index is `H` or more), every other cell as it was, `cnt = 0` and `init = 1`; for every index and payload.
The record buffer's slots `0 .. T-1` hold the record's bytes, any other slot what it held, `dirty` is set, and every
other field is unchanged but that nothing is emitted. -/
def Obligations.RecordTheorem : Prop :=
  ∀ (s : State) (r : Byte) (payload : List Byte), s.Ready → s.cnt ≤ 1 → payload.length = s.cfg.N →
    let row := if r.toNat < s.cfg.H then r.toNat else 0
    ∃ t, exec (.rowrec r payload) s = .next t ∧
      (∀ j, j < s.cfg.L → some (fbAt t (row * s.cfg.L + j)) = payload[j]?) ∧
      (∀ a, (a < row * s.cfg.L ∨ row * s.cfg.L + s.cfg.L ≤ a) → fbAt t a = fbAt s a) ∧
      (∀ k, k < s.cfg.T → some (rbAt t k) = (0x59#8 :: 0x32#8 :: r :: payload)[k]?) ∧
      (∀ k, s.cfg.T ≤ k → rbAt t k = rbAt s k) ∧
      t.cnt = 0 ∧ t.init = true ∧ t.dirty = true ∧
      t.cfg = s.cfg ∧ t.alt = s.alt ∧ t.own = s.own ∧ t.stopped = s.stopped ∧ t.redrawReq = s.redrawReq ∧
      t.snapReq = s.snapReq ∧ t.rx = s.rx ∧ t.sched = s.sched ∧ t.out = [] ∧ t.resets = s.resets ∧ t.grants = s.grants

/-- ROWREC is the composite the opcode table calls it: the same state as its bytes consumed one by one, each as the
operation it is where it meets the decoder. -/
def Obligations.RecordIsItsBytes : Prop :=
  ∀ (s : State) (r : Byte) (payload : List Byte), s.Ready → s.cnt ≤ 1 → payload.length = s.cfg.N →
    exec (.rowrec r payload) s = byteRun (0x59#8 :: 0x32#8 :: r :: payload) s

/-- R130: from `cnt = 0`, a doubled first sync byte decodes the record that starts at the second one; `cnt` goes 0, 1,
1, 2. -/
def Obligations.DoubledSyncByte : Prop :=
  ∀ (s : State) (r : Byte) (payload : List Byte), s.Ready → s.cnt = 0 → payload.length = s.cfg.N →
    byteRun (0x59#8 :: 0x59#8 :: 0x32#8 :: r :: payload) s = exec (.rowrec r payload) s ∧
    (∃ t, byteRun [0x59#8] s = .next t ∧ t.cnt = 1) ∧
    (∃ t, byteRun [0x59#8, 0x59#8] s = .next t ∧ t.cnt = 1) ∧
    (∃ t, byteRun [0x59#8, 0x59#8, 0x32#8] s = .next t ∧ t.cnt = 2)

/-- The bound of R132: from any fill count, within the next `T - 2` bytes, whatever they are, the decoder is back in
AwaitingSync1 or AwaitingSync2. -/
def Obligations.Resynchronisation : Prop :=
  ∀ (s : State) (bs : List Byte), s.Ready → s.cnt < s.cfg.T → bs.length = s.cfg.T - 2 →
    ∃ k t, k ≤ s.cfg.T - 2 ∧ byteRun (bs.take k) s = .next t ∧ t.cnt ≤ 1

/-- R67: what the decoder does next depends only on `cnt`, the byte and the record buffer: two states whose slots `0 ..
T-1` read alike, and that differ in the framebuffer, `alt`, `init`, the count of resets or anything else, classify
the byte alike, end with slots that read alike and with the same count, and write the same bytes at the same offset.
-/
def Obligations.DecodingIgnoresTheFramebuffer : Prop :=
  ∀ (s s' : State) (b : Byte), s.Ready → s'.Ready → s.cfg = s'.cfg → s.cnt = s'.cnt →
    (∀ k, k < s.cfg.T → rbAt s k = rbAt s' k) →
    streamInstr s b = streamInstr s' b ∧
    ∃ t t' off bytes, exec (streamInstr s b) s = .next t ∧ exec (streamInstr s' b) s' = .next t' ∧
      (∀ k, k < s.cfg.T → rbAt t k = rbAt t' k) ∧ t.cnt = t'.cnt ∧
      t.fb = Memory.writeRow s.fb off bytes ∧ t'.fb = Memory.writeRow s'.fb off bytes ∧
      (bytes = [] → t.init = s.init ∧ t'.init = s'.init) ∧
      (bytes ≠ [] → t.init = true ∧ t'.init = true)

/-! ### 42_renderer.md -/

/-- R140: one REDRAW emits one FRAME over all cells in ascending order and their four tones in order, each lit or not
under the sampled counter, with the border always requested and the overlay exactly while `init = 0`; it advances
`alt` modulo 3 and changes no other element. (What becomes of the latched tick is `ServedRequestsEnd`.) -/
def Obligations.RedrawEffect : Prop :=
  ∀ s : State, s.LockFree →
    ∃ latch, exec .redraw s = .next { s with
      alt := (s.alt + 1) % 3
      redrawReq := latch
      out := [.frame ((List.range s.cfg.P).flatMap fun i => (List.range 4).map fun k =>
          let t := 85 * (((fbAt s i).toNat >>> (6 - 2 * k)) % 4)
          { x := 4 * (i % s.cfg.L) + k
            y := i / s.cfg.L
            lit := t == 0 || (t == 85 && s.alt != 0) || (t == 170 && s.alt == 0) })
        true (!s.init)] }

/-- R147: the closed form of the plane of a REDRAW, at every display pixel. -/
def Obligations.PlaneClosedForm : Prop :=
  ∀ (s : State) (X Y : Nat), s.LockFree → X < 4 * s.cfg.L → Y < s.cfg.H →
    let c := ((fbAt s (Y * s.cfg.L + X / 4)).toNat >>> (6 - 2 * (X % 4))) % 4
    ∃ t pix border overlay, exec .redraw s = .next t ∧ t.out = [.frame pix border overlay] ∧
      planeAt pix X Y = some (c == 0 || (c == 1 && s.alt != 0) || (c == 2 && s.alt == 0))

/-- R145 and R146 (the spec's decisions D14, D24): every pixel of the plane is emitted exactly once, row by row, left to
right, top row first. -/
def Obligations.PlaneCompleteInOrder : Prop :=
  ∀ s : State, s.LockFree →
    ∃ t pix border overlay, exec .redraw s = .next t ∧ t.out = [.frame pix border overlay] ∧
      pix.map (fun p => (p.x, p.y)) =
        (List.range (4 * s.cfg.L * s.cfg.H)).map fun n => (n % (4 * s.cfg.L), n / (4 * s.cfg.L))

/-- The four rows of R144's lit predicate, as the operations answer it; they change no other field. (That the rows are
operations that take the lock and answer in `out` is the model's choice, log entry 7.) -/
def Obligations.LitPredicate : Prop :=
  ∀ s : State, s.LockFree →
    exec .pxT0 s = .next { s with out := [.pixel 0#8 true] } ∧
    exec .pxT85 s = .next { s with out := [.pixel 85#8 (decide (s.alt ≠ 0))] } ∧
    exec .pxT170 s = .next { s with out := [.pixel 170#8 (decide (s.alt = 0))] } ∧
    exec .pxT255 s = .next { s with out := [.pixel 255#8 false] }

/-- R151, the duty-cycle law: over three consecutive redraws of an unchanged framebuffer a pixel of code `c` is lit `3 -
c` times. -/
def Obligations.DutyCycleLaw : Prop :=
  ∀ (s : State) (X Y : Nat), s.LockFree → s.alt < 3 → X < 4 * s.cfg.L → Y < s.cfg.H →
    let c := ((fbAt s (Y * s.cfg.L + X / 4)).toNat >>> (6 - 2 * (X % 4))) % 4
    ∃ t1 t2 t3 p1 p2 p3 v1 v2 v3,
      exec .redraw s = .next t1 ∧ exec .redraw t1 = .next t2 ∧ exec .redraw t2 = .next t3 ∧
      t1.out = [.frame p1 true (!s.init)] ∧ t2.out = [.frame p2 true (!s.init)] ∧
      t3.out = [.frame p3 true (!s.init)] ∧
      planeAt p1 X Y = some v1 ∧ planeAt p2 X Y = some v2 ∧ planeAt p3 X Y = some v3 ∧
      v1.toNat + v2.toNat + v3.toNat = 3 - c ∧ t3.alt = s.alt

/-- R155: what a REDRAW emits is a function of the framebuffer, `init` and `alt`, and of nothing else. -/
def Obligations.RedrawOutputDependsOnlyOn : Prop :=
  ∀ s s' : State, s.LockFree → s'.LockFree → s.cfg = s'.cfg → (∀ a, a < s.cfg.P → fbAt s a = fbAt s' a) →
    s.init = s'.init → s.alt = s'.alt →
    ∃ t t', exec .redraw s = .next t ∧ exec .redraw s' = .next t' ∧ t.out = t'.out

/-- R150: every REDRAW advances `alt`, 0 to 1, 1 to 2, 2 to 0, whether or not `init` is set; nothing else but RESET
writes it. -/
def Obligations.AlternationCounterWriters : Prop :=
  (∀ s : State, s.LockFree → ∃ t, exec .redraw s = .next t ∧ t.alt = (s.alt + 1) % 3) ∧
  ∀ (i : Instr) (s t : State), exec i s = .next t → t.alt ≠ s.alt → i = .redraw ∨ i = .reset

/-! ### 43_snapshot_port.md -/

/-- R160: SNAPSHOT emits the bytes of the framebuffer, last row first, columns ascending, then SNAPDONE, and changes no
element of the block, whatever `stopped` and `init`. (What becomes of the latched trigger is `ServedRequestsEnd`.)
-/
def Obligations.SnapshotEffect : Prop :=
  ∀ s : State, s.LockFree →
    ∃ latch, exec .snapshot s = .next { s with
      snapReq := latch
      out := ((List.range s.cfg.H).reverse.flatMap fun y =>
        (List.range s.cfg.L).map fun x => .snapByte (fbAt s (y * s.cfg.L + x))) ++ [.snapDone] }

/-- R161: the closed form of what a SNAPSHOT emits: `P` bytes, the last row first, columns ascending, then SNAPDONE. -/
def Obligations.SnapshotClosedForm : Prop :=
  ∀ s : State, s.LockFree →
    ∃ t, exec .snapshot s = .next t ∧ t.out.length = s.cfg.P + 1 ∧ t.out[s.cfg.P]? = some .snapDone ∧
      ∀ n, n < s.cfg.P →
        t.out[n]? = some (.snapByte (fbAt s ((s.cfg.H - 1 - n / s.cfg.L) * s.cfg.L + n % s.cfg.L)))

/-! ### 44_host_control.md -/

/-- R170 (the spec's decisions D9, D10, D11; the latches are the model's choice, log entry 6): RESET from any state, the
lock held or not: every element at its reset value, both memories unspecified anew (each cell and slot reads as a
fresh free value), and a pending REDRAW or SNAPSHOT gone. The bytes at the transport and the environment's choices
are outside the block. -/
def Obligations.ResetEffect : Prop :=
  ∀ s : State, s.cfg.ok = true →
    ∃ t, exec .reset s = .next t ∧ t.cfg = s.cfg ∧ t.cnt = 0 ∧ t.init = false ∧ t.alt = 0 ∧ t.own = .free ∧
      t.dirty = false ∧ t.stopped = false ∧ t.redrawReq = false ∧ t.snapReq = false ∧ t.out = [] ∧
      t.rx = s.rx ∧ t.sched = s.sched ∧ t.resets = s.resets + 1 ∧ t.grants = s.grants ∧
      (∀ a, fbAt t a = Config.fbInit (s.resets + 1) a) ∧ (∀ k, rbAt t k = Config.rbInit (s.resets + 1) k)

/-- R38 (the spec's decisions D9, D10, D11): the state after the RESET that begins a run, for every configuration; the
contents of the framebuffer are FB_INIT, of which nothing is known. (That `State.reset` has 32 by 64 cells is the
model's choice, log entry 1.) -/
def Obligations.ResetState : Prop :=
  ∀ c : Config, let s := State.resetWith c
    s.cfg = c ∧ s.cnt = 0 ∧ s.init = false ∧ s.alt = 0 ∧ s.own = .free ∧ s.dirty = false ∧ s.stopped = false ∧
    (∀ a, fbAt s a = Config.fbInit s.resets a) ∧ (∀ k, rbAt s k = Config.rbInit s.resets k) ∧
    State.reset = State.resetWith State.reset.cfg

/-- R174 (the spec's decision D20): every BYTE, whatever its case, sets `dirty`. -/
def Obligations.EveryByteSetsDirty : Prop :=
  ∀ (s : State) (b : Byte), s.Ready → ∃ t, exec (streamInstr s b) s = .next t ∧ t.dirty = true

/-- R175 (the spec's decision D20): REFRESH_REQ with `dirty = 1`, `stopped = 0` and no byte on offer emits the pulse and
clears `dirty`, whoever holds the lock; a second one emits nothing; and where it is not enabled nothing happens. -/
def Obligations.RefreshRequest : Prop :=
  ∀ s : State, s.cfg.ok = true →
    (s.dirty = true → s.stopped = false → s.rx = [] →
      exec .refreshReq s = .next { s with dirty := false, out := [.refreshReq] } ∧
      exec .refreshReq { s with dirty := false, out := [.refreshReq] } = .next { s with dirty := false, out := [] }) ∧
    (s.dirty = false ∨ s.stopped = true ∨ s.rx ≠ [] → exec .refreshReq s = .next { s with out := [] })

/-- R178 (the spec's decision D21): STOP sets `stopped` and nothing else, from any state. -/
def Obligations.StopEffect : Prop :=
  ∀ s : State, s.cfg.ok = true → exec .stop s = .next { s with stopped := true, out := [] }

/-- R178, R179 (the spec's decision D21): while `stopped = 1` no operation but RESET writes `fb`, `rb`, `cnt`, `init` or
`dirty`, or clears `stopped`; and a byte on offer is not accepted. -/
def Obligations.StoppedFreezesTheDecoder : Prop :=
  (∀ (i : Instr) (s : State), s.cfg.ok = true → s.stopped = true → i ≠ .reset →
    ∃ t, exec i s = .next t ∧ t.fb = s.fb ∧ t.rb = s.rb ∧ t.cnt = s.cnt ∧ t.init = s.init ∧ t.dirty = s.dirty ∧
      t.stopped = true ∧ t.resets = s.resets) ∧
  (∀ (s : State) (es : List Event) (e : Event), s.cfg.ok = true → s.stopped = true → s.sched = e :: es →
    e = .grantDec ∨ e = .grantRecord → step s = .next { s with sched := es, out := [] })

/-- R184 (the spec's decision D27): the upstream bytes have no effect on the block, whatever its state. -/
def Obligations.UpstreamBytesHaveNoEffect : Prop :=
  ∀ (s : State) (i : Instr), s.cfg.ok = true → i ∈ [.txPlus, .txM, .txGt, .txLt, .txExit, .txStart] →
    exec i s = .next { s with out := [] }

/-! ### 10_state.md, 20_memory.md, 60_exceptions.md -/

/-- R40, as the frame of every operation by agent (the latches are the model's choice, log entry 6; the counts of resets
and of the arbiter's choices are its own, log entries 4 and 9). No operation changes the parameters, the waiting
bytes, the schedule or the count of the arbiter's choices, and none but RESET the count of resets. The decoder's
operations leave `alt`, `own`, `stopped` and the latches alone; REFRESH_REQ leaves `rb`, `cnt`, `init` and `fb`
alone too. The renderer's and the snapshot agent's leave `rb`, `cnt`, `init`, `fb`, `own`, `dirty` and `stopped`
alone, `alt` is written by REDRAW alone of them, and each ends at most its own latch. The environment's STOP writes
`stopped` alone, and the upstream bytes write nothing. -/
def Obligations.AccessRights : Prop :=
  ∀ (i : Instr) (s t : State), exec i s = .next t →
    (t.cfg = s.cfg ∧ t.rx = s.rx ∧ t.sched = s.sched ∧ t.grants = s.grants ∧ (i ≠ .reset → t.resets = s.resets)) ∧
    ((∃ p, channelOf i = .stream p) ∨ (∃ n, channelOf i = .record n) ∨ i = .refreshReq →
      t.alt = s.alt ∧ t.own = s.own ∧ t.stopped = s.stopped ∧ t.redrawReq = s.redrawReq ∧ t.snapReq = s.snapReq) ∧
    (i = .refreshReq → t.rb = s.rb ∧ t.cnt = s.cnt ∧ t.init = s.init ∧ t.fb = s.fb) ∧
    (i = .redraw ∨ i = .snapshot ∨ channelOf i = .cell ∨ channelOf i = .tone →
      t.rb = s.rb ∧ t.cnt = s.cnt ∧ t.init = s.init ∧ t.fb = s.fb ∧ t.own = s.own ∧ t.dirty = s.dirty ∧
      t.stopped = s.stopped ∧ (i ≠ .redraw → t.alt = s.alt ∧ t.redrawReq = s.redrawReq) ∧
      (i ≠ .snapshot → t.snapReq = s.snapReq)) ∧
    (i = .stop ∨ channelOf i = .upstream →
      t.rb = s.rb ∧ t.cnt = s.cnt ∧ t.init = s.init ∧ t.fb = s.fb ∧ t.alt = s.alt ∧ t.own = s.own ∧
      t.dirty = s.dirty ∧ t.redrawReq = s.redrawReq ∧ t.snapReq = s.snapReq ∧ (i ≠ .stop → t.stopped = s.stopped))

/-- R23: `init` is set by a commit and by nothing else, and cleared by nothing but RESET. -/
def Obligations.InitialisedFlagWriters : Prop :=
  (∀ (s : State) (b : Byte), s.Ready → s.cnt = s.cfg.T - 1 → ∃ t, exec (.fillCommit b) s = .next t ∧ t.init = true) ∧
  (∀ s : State, s.cfg.ok = true → ∃ t, exec .reset s = .next t ∧ t.init = false) ∧
  (∀ (i : Instr) (s t : State), exec i s = .next t → t.init ≠ s.init →
    (t.init = false ∧ i = .reset) ∨
    (t.init = true ∧ ((∃ b, i = .fillCommit b) ∨ ∃ r payload, i = .rowrec r payload)))

/-- The framebuffer is written by a commit and by RESET alone (R50, R56): every other operation leaves every byte of it
as it reads. -/
def Obligations.FramebufferWriters : Prop :=
  ∀ (i : Instr) (s t : State), exec i s = .next t →
    i ≠ .reset → (∀ b, i ≠ .fillCommit b) → (∀ r payload, i ≠ .rowrec r payload) →
      t.fb = s.fb ∧ ∀ a, fbAt t a = fbAt s a

/-- The waiting of R26 and R64 (the spec's decision D7; that a waiting operation is a step of the model with no effect
is log entry 8): while another owner holds the lock, an operation that needs it does not happen. -/
def Obligations.HeldLockMakesAgentsWait : Prop :=
  ∀ (i : Instr) (s : State), s.cfg.ok = true → s.own ≠ .free →
    (∃ p, channelOf i = .stream p) ∨ (∃ n, channelOf i = .record n) ∨ i = .redraw ∨ i = .snapshot ∨
      channelOf i = .tone →
    exec i s = .next { s with out := [] }

/-- R190: every step and every operation answers a next state, never a fault, under every accepted configuration; and
the parameters never change. -/
def Obligations.EveryStepAnswersNext : Prop :=
  ∀ s : State, s.cfg.ok = true →
    (∃ t, step s = .next t ∧ t.cfg = s.cfg) ∧ ∀ i : Instr, ∃ t, exec i s = .next t ∧ t.cfg = s.cfg

/-- The model's form of R6 (the spec's decisions D1, D23): a configuration outside R5's bounds, or with `N != L` (R6),
is refused by every step and every operation. -/
def Obligations.BadConfigurationRefused : Prop :=
  ∀ s : State, ¬ (1 ≤ s.cfg.L ∧ 1 ≤ s.cfg.H ∧ s.cfg.H ≤ 256 ∧ s.cfg.N = s.cfg.L) →
    step s = .refused .badConfig ∧ ∀ i : Instr, exec i s = .refused .badConfig

/-- A step runs the decoded operation: where the next event of the schedule brings one, the step is `exec` of it, on the
state with that event taken and, on the stream, its bytes accepted (R171, R177). (That the environment is a list of
events is the model's choice, log entry 3; that a whole record can be granted at once is read from the spec, log
entry 11; that the look-ups have events of their own is the model's choice, log entry 7. What a step does at the end
of the schedule is `IdleArbiterGrantsAWaitingAgent`.) -/
def Obligations.StepRunsTheDecodedOperation : Prop :=
  ∀ (s : State) (es : List Event) (i : Instr),
    (∀ rest, s.stopped = false → s.own = .free → s.sched = .grantDec :: es →
      decode (.stream (phase s.cfg s.cnt)) s.rx = .ok (i, rest) →
        step s = exec i { s with sched := es, rx := rest }) ∧
    (∀ rest, s.stopped = false → s.own = .free → s.cnt ≤ 1 → s.sched = .grantRecord :: es →
      decode (.record s.cfg.N) s.rx = .ok (i, rest) →
        step s = exec i { s with sched := es, rx := rest }) ∧
    (s.redrawReq = true → s.own = .free → s.sched = .grantRen :: es → step s = exec .redraw { s with sched := es }) ∧
    (s.snapReq = true → s.own = .free → s.sched = .grantSnap :: es → step s = exec .snapshot { s with sched := es }) ∧
    (s.sched = .drain :: es → step s = exec .refreshReq { s with sched := es }) ∧
    (s.sched = .stop :: es → step s = exec .stop { s with sched := es }) ∧
    (s.sched = .reset :: es → step s = exec .reset { s with sched := es }) ∧
    (∀ bs, s.sched = .tx bs :: es → decode .upstream bs = .ok (i, []) → step s = exec i { s with sched := es }) ∧
    (∀ b, s.sched = .cellLookup b :: es → step s = exec (.cellExpand b) { s with sched := es }) ∧
    (∀ b, s.sched = .toneLookup b :: es → decode .tone [b] = .ok (i, []) → step s = exec i { s with sched := es })

/-- What the events that bring no operation do (the model's form of R152, R165, R171, R172, R193; log entries 3, 6, 7
and 11): a byte is offered, lost or changed, where there is one; a request is latched, or dropped while one is
latched; a grant nobody can use passes (nothing latched, nothing offered, the lock held: R26; for a whole record,
also past `cnt = 1` or where the bytes on offer do not begin with one); bytes that are no upstream sequence and a
byte that is no tone code bring nothing; and with nothing scheduled and nobody waiting the block is idle. -/
def Obligations.InterfaceEvents : Prop :=
  ∀ (s : State) (es : List Event), s.cfg.ok = true →
    (∀ b, s.sched = .offer b :: es → step s = .next { s with sched := es, rx := s.rx ++ [b], out := [] }) ∧
    (s.sched = .lose :: es → step s = .next { s with sched := es, rx := s.rx.tail, out := [] }) ∧
    (∀ b b' rest, s.sched = .corrupt b :: es → s.rx = b' :: rest →
      step s = .next { s with sched := es, rx := b :: rest, out := [] }) ∧
    (∀ b, s.sched = .corrupt b :: es → s.rx = [] → step s = .next { s with sched := es, out := [] }) ∧
    (s.sched = .redrawTick :: es → step s = .next { s with sched := es, redrawReq := true, out := [] }) ∧
    (s.sched = .snapTrigger :: es → step s = .next { s with sched := es, snapReq := true, out := [] }) ∧
    (s.redrawReq = false → s.sched = .grantRen :: es → step s = .next { s with sched := es, out := [] }) ∧
    (s.snapReq = false → s.sched = .grantSnap :: es → step s = .next { s with sched := es, out := [] }) ∧
    (s.rx = [] → s.sched = .grantDec :: es → step s = .next { s with sched := es, out := [] }) ∧
    (s.own ≠ .free → s.sched = .grantDec :: es ∨ s.sched = .grantRecord :: es ∨ s.sched = .grantRen :: es ∨
      s.sched = .grantSnap :: es → step s = .next { s with sched := es, out := [] }) ∧
    (s.sched = .grantRecord :: es → 2 ≤ s.cnt ∨ (∀ i rest, decode (.record s.cfg.N) s.rx ≠ .ok (i, rest)) →
      step s = .next { s with sched := es, out := [] }) ∧
    (∀ bs, s.sched = .tx bs :: es → (∀ i, decode .upstream bs ≠ .ok (i, [])) →
      step s = .next { s with sched := es, out := [] }) ∧
    (∀ b, s.sched = .toneLookup b :: es → 3 < b.toNat → step s = .next { s with sched := es, out := [] }) ∧
    (s.sched = [] → s.own ≠ .free ∨ (s.redrawReq = false ∧ s.snapReq = false ∧ (s.stopped = true ∨ s.rx = [])) →
      step s = .next { s with out := [] })

/-- R39: the invariant holds at reset. -/
def Obligations.ResetMeetsTheInvariant : Prop :=
  State.reset.Inv ∧ ∀ c : Config, c.ok = true → (State.resetWith c).Inv

/-- R39: every step keeps the invariant: `cnt` and `alt` in range, the lock free, both memories in canonical form and in
range, rows whole, `init` exactly after a commit, and the record buffer holding what the fill count says. -/
def Obligations.EveryStepKeepsTheInvariant : Prop :=
  ∀ s t : State, s.Inv → step s = .next t → t.Inv

/-- Row atomicity (R56, R62): a step other than RESET leaves the whole framebuffer as it reads, or writes exactly one
whole row, that of the clamped index in slot 2, with the whole payload of the record buffer. -/
def Obligations.RowsAreWrittenWhole : Prop :=
  ∀ (s t : State), s.sched.head? ≠ some .reset → step s = .next t →
    (∀ a, fbAt t a = fbAt s a) ∨
    (let row := if (rbAt t 2).toNat < t.cfg.H then (rbAt t 2).toNat else 0;
      (∀ x, x < t.cfg.L → fbAt t (row * t.cfg.L + x) = rbAt t (3 + x)) ∧
      (∀ a, (a < row * t.cfg.L ∨ row * t.cfg.L + t.cfg.L ≤ a) → fbAt t a = fbAt s a) ∧
      t.init = true ∧ t.cnt = 0)

/-- The script line ROW of R97 and R98 (the spec's decision D22), run step by step, ends in the state ROWREC gives.
(That each byte is one event that offers it and one that grants the lock is the model's choice, log entry 3.) -/
def Obligations.RowScriptLineRunsTheRecord : Prop :=
  ∀ (s : State) (r : Byte) (payload : List Byte) (es : List Event), s.Ready → s.cnt ≤ 1 → s.rx = [] →
    payload.length = s.cfg.N → s.sched = (ScriptLine.row r payload).events ++ es →
    Sys2Proof.core.run (2 * s.cfg.T) s = exec (.rowrec r payload) { s with sched := es }

/-- Offering and accepting do not mix with the hints and the readers (R133): a REFRESH_REQ, a REDRAW or a SNAPSHOT
between two bytes leaves what the decoder does with the later ones unchanged. -/
def Obligations.ReadersAndDrainsDoNotDisturbTheDecoder : Prop :=
  ∀ (s : State) (i : Instr) (bs : List Byte), s.Ready → i = .refreshReq ∨ i = .redraw ∨ i = .snapshot →
    ∃ u t t', exec i s = .next u ∧ byteRun bs s = .next t ∧ byteRun bs u = .next t' ∧
      t'.fb = t.fb ∧ t'.rb = t.rb ∧ t'.cnt = t.cnt ∧ t'.init = t.init ∧ t'.resets = t.resets

/-- An operation of the decoder met out of its place does nothing but end the outputs of the step before (the model's
choice, log entry 8): a case of BYTE at a fill count, or with a byte, that is another case's, and a record past `cnt
= 1` or with a payload that is not `N` bytes long. -/
def Obligations.OperationsOutOfPlaceDoNothing : Prop :=
  ∀ (i : Instr) (s : State), s.cfg.ok = true →
    (∀ p, channelOf i = .stream p → phase s.cfg s.cnt ≠ p ∨ i.wf s.cfg = false →
      exec i s = .next { s with out := [] }) ∧
    (∀ r payload, i = .rowrec r payload → 2 ≤ s.cnt ∨ payload.length ≠ s.cfg.N →
      exec i s = .next { s with out := [] })

/-- A request that is served is over: REDRAW ends the latched tick and keeps the latched trigger, SNAPSHOT the other way
round (R177 "performed once", R152, R165; the latches are the model's choice, log entry 6). -/
def Obligations.ServedRequestsEnd : Prop :=
  ∀ s : State, s.LockFree →
    (∃ t, exec .redraw s = .next t ∧ t.redrawReq = false ∧ t.snapReq = s.snapReq) ∧
    (∃ t, exec .snapshot s = .next t ∧ t.snapReq = false ∧ t.redrawReq = s.redrawReq)

/-- R65 (the spec's decision D6), "any one of them may be granted": at the end of the schedule, with the lock free and
somebody waiting, a step is the operation of one of those that wait: REDRAW for a latched tick, SNAPSHOT for a
latched trigger, BYTE of the oldest byte on offer. Which one is a free value. (That the arbiter goes on by itself at
the end of the schedule is the model's form, log entry 9.) -/
def Obligations.IdleArbiterGrantsAWaitingAgent : Prop :=
  ∀ s : State, s.LockFree → s.sched = [] →
    s.redrawReq = true ∨ s.snapReq = true ∨ (s.stopped = false ∧ s.rx ≠ []) →
    let u := { s with grants := s.grants + 1 }
    (s.redrawReq = true ∧ step s = exec .redraw u) ∨
    (s.snapReq = true ∧ step s = exec .snapshot u) ∨
    (s.stopped = false ∧ ∃ b rest, s.rx = b :: rest ∧ step s = exec (streamInstr s b) { u with rx := rest })

/-- R65, R236 (the spec's decision D6), the weak fairness of the lock: from every state with a free lock a run comes to
the end of the schedule with no agent left waiting: no tick latched, no trigger latched, and no byte on offer unless
the decoder is stopped. (That a request ends only when it is served is `RequestsEndOnlyWhenServed`; the bound is the
model's form, log entry 9.) -/
def Obligations.EveryRequestIsEventuallyServed : Prop :=
  ∀ s : State, s.LockFree →
    ∃ k t, k ≤ 2 * s.sched.length + s.rx.length + 2 ∧ Sys2Proof.core.run k s = .next t ∧
      t.sched = [] ∧ t.own = .free ∧ t.redrawReq = false ∧ t.snapReq = false ∧ (t.stopped = true ∨ t.rx = [])

/-- A request that waits is not lost (R65, R172, R177, R197; the latches are the model's choice, log entry 6): in any
step the latched tick ends only with the FRAME of a REDRAW, the latched trigger only with the end of a SNAPSHOT, or
either by RESET; and bytes leave the transport only by its own loss of one, or accepted by a decoder that has the
lock and is not stopped. -/
def Obligations.RequestsEndOnlyWhenServed : Prop :=
  ∀ s t : State, step s = .next t →
    (s.redrawReq = true → t.redrawReq = false →
      s.sched.head? = some .reset ∨ ∃ pix border overlay, t.out = [.frame pix border overlay]) ∧
    (s.snapReq = true → t.snapReq = false → s.sched.head? = some .reset ∨ t.out.getLast? = some .snapDone) ∧
    (t.rx.length < s.rx.length →
      s.sched.head? = some .lose ∨ (s.own = .free ∧ s.stopped = false ∧ t.dirty = true))
end

