-- ==== Sys2Proof/Laws/Memory.lean ====
section
/-! SUPPORT. The sparse memories: read after write, and the canonical form every write keeps. -/

namespace Sys2Proof.Machine

@[simp] theorem lookup_nil (a : Nat) : Memory.lookup [] a = none := rfl

@[simp] theorem lookup_store_same (m : Memory) (a : Nat) (v : Byte) :
    Memory.lookup (Memory.store m a v) a = some v := by
  induction m with
  | nil => simp [Memory.store, Memory.lookup]
  | cons p rest ih =>
    simp only [Memory.store]
    split
    · simp [Memory.lookup]
    · split
      · simp [Memory.lookup]
      · simp [Memory.lookup, *]

theorem lookup_store_ne (m : Memory) {a a' : Nat} (v : Byte) (h : a' ≠ a) :
    Memory.lookup (Memory.store m a v) a' = Memory.lookup m a' := by
  induction m with
  | nil => simp [Memory.store, Memory.lookup, h]
  | cons p rest ih =>
    simp only [Memory.store]
    split
    · simp [Memory.lookup, h]
    · split
      · next heq => subst heq; simp [Memory.lookup, h]
      · simp [Memory.lookup, ih]

theorem lookup_store (m : Memory) (a a' : Nat) (v : Byte) :
    Memory.lookup (Memory.store m a v) a' = if a' = a then some v else Memory.lookup m a' := by
  split
  · next h => subst h; simp
  · next h => exact lookup_store_ne m v h

theorem store_ne_nil (m : Memory) (a : Nat) (v : Byte) : Memory.store m a v ≠ [] := by
  cases m with
  | nil => simp [Memory.store]
  | cons p rest => simp only [Memory.store]; split <;> [simp; (split <;> simp)]

/-- Storing the same byte again changes nothing. -/
@[simp] theorem store_store_same (m : Memory) (a : Nat) (v : Byte) :
    Memory.store (Memory.store m a v) a v = Memory.store m a v := by
  induction m with
  | nil => simp [Memory.store]
  | cons p rest ih =>
    simp only [Memory.store]
    split
    · simp [Memory.store]
    · split
      · simp [Memory.store]
      · simp [Memory.store, *]

theorem risesFrom_store (m : Memory) (lo a : Nat) (v : Byte) (h : Memory.risesFrom lo m = true)
    (ha : lo ≤ a) : Memory.risesFrom lo (Memory.store m a v) = true := by
  induction m generalizing lo with
  | nil => simp [Memory.store, Memory.risesFrom, ha]
  | cons p rest ih =>
    simp only [Memory.risesFrom, Bool.and_eq_true, decide_eq_true_eq] at h
    simp only [Memory.store]
    split
    · simp only [Memory.risesFrom, Bool.and_eq_true, decide_eq_true_eq]
      exact ⟨ha, by omega, h.2⟩
    · split
      · next heq => subst heq; simp [Memory.risesFrom, ha, h.2]
      · simp only [Memory.risesFrom, Bool.and_eq_true, decide_eq_true_eq]
        exact ⟨h.1, ih _ h.2 (by omega)⟩

/-- A write keeps the canonical form. -/
theorem wf_store (m : Memory) (a : Nat) (v : Byte) (h : Memory.wf m = true) :
    Memory.wf (Memory.store m a v) = true :=
  risesFrom_store m 0 a v h (Nat.zero_le a)

/-- A row write keeps the canonical form. -/
theorem wf_writeRow (bytes : List Byte) (m : Memory) (off : Nat) (h : Memory.wf m = true) :
    Memory.wf (Memory.writeRow m off bytes) = true := by
  induction bytes generalizing m off with
  | nil => exact h
  | cons b rest ih => exact ih _ _ (wf_store m off b h)

theorem below_store (m : Memory) (a n : Nat) (v : Byte) (h : Memory.below m n = true) (ha : a < n) :
    Memory.below (Memory.store m a v) n = true := by
  induction m with
  | nil => simp [Memory.store, Memory.below, ha]
  | cons p rest ih =>
    have h' := h
    simp only [Memory.below, List.all_cons, Bool.and_eq_true, decide_eq_true_eq] at h
    simp only [Memory.store]
    split
    · simp only [Memory.below, List.all_cons, Bool.and_eq_true, decide_eq_true_eq]
      exact ⟨ha, h⟩
    · split
      · simp only [Memory.below, List.all_cons, Bool.and_eq_true, decide_eq_true_eq]
        exact ⟨ha, h.2⟩
      · have := ih h.2
        simp only [Memory.below, List.all_cons, Bool.and_eq_true, decide_eq_true_eq] at this ⊢
        exact ⟨h.1, this⟩

theorem below_writeRow (bytes : List Byte) (m : Memory) (off n : Nat) (h : Memory.below m n = true)
    (hn : off + bytes.length ≤ n) : Memory.below (Memory.writeRow m off bytes) n = true := by
  induction bytes generalizing m off with
  | nil => exact h
  | cons b rest ih =>
    simp only [List.length_cons] at hn
    exact ih _ _ (below_store m off n b h (by omega)) (by omega)

/-- What a row write leaves at every address: byte `j` at `off + j`, and everything else as before. -/
theorem lookup_writeRow (bytes : List Byte) (m : Memory) (off a : Nat) :
    Memory.lookup (Memory.writeRow m off bytes) a =
      if off ≤ a ∧ a < off + bytes.length then bytes[a - off]? else Memory.lookup m a := by
  induction bytes generalizing m off with
  | nil => simp [Memory.writeRow]
  | cons b rest ih =>
    simp only [Memory.writeRow, ih, lookup_store, List.length_cons]
    by_cases h1 : off + 1 ≤ a ∧ a < off + 1 + rest.length
    · rw [if_pos h1, if_pos (by omega), show a - off = (a - (off + 1)) + 1 by omega,
        List.getElem?_cons_succ]
    · rw [if_neg h1]
      by_cases h2 : a = off
      · subst h2; simp
      · rw [if_neg h2, if_neg (by omega)]

theorem lookup_writeRow_outside (bytes : List Byte) (m : Memory) (off a : Nat)
    (h : a < off ∨ off + bytes.length ≤ a) :
    Memory.lookup (Memory.writeRow m off bytes) a = Memory.lookup m a := by
  rw [lookup_writeRow, if_neg (by omega)]

theorem lookup_writeRow_inside (bytes : List Byte) (m : Memory) (off j : Nat)
    (h : j < bytes.length) :
    Memory.lookup (Memory.writeRow m off bytes) (off + j) = some bytes[j] := by
  rw [lookup_writeRow, if_pos (by omega), Nat.add_sub_cancel_left, List.getElem?_eq_getElem h]

theorem writeRow_ne_nil (bytes : List Byte) (m : Memory) (off : Nat) (h : bytes ≠ []) :
    Memory.writeRow m off bytes ≠ [] := by
  have keep : ∀ (bs : List Byte) (m : Memory) (o : Nat), m ≠ [] → Memory.writeRow m o bs ≠ [] := by
    intro bs
    induction bs with
    | nil => exact fun _ _ hm => hm
    | cons b rest ih => exact fun m o _ => ih _ _ (store_ne_nil m o b)
  cases bytes with
  | nil => exact absurd rfl h
  | cons b rest => exact keep rest _ _ (store_ne_nil m off b)

theorem lookup_none_of_risesFrom (m : Memory) (lo a : Nat) (h : Memory.risesFrom lo m = true)
    (ha : a < lo) : Memory.lookup m a = none := by
  induction m generalizing lo with
  | nil => rfl
  | cons p rest ih =>
    simp only [Memory.risesFrom, Bool.and_eq_true, decide_eq_true_eq] at h
    simp only [Memory.lookup]
    rw [if_neg (by omega)]
    exact ih _ h.2 (by omega)

/-- Equal contents, equal data: two memories in canonical form that list the same byte everywhere are one list. -/
theorem memory_ext (m m' : Memory) (hm : Memory.wf m = true) (hm' : Memory.wf m' = true)
    (h : ∀ a, Memory.lookup m a = Memory.lookup m' a) : m = m' := by
  suffices H : ∀ (m m' : Memory) (lo : Nat), Memory.risesFrom lo m = true →
      Memory.risesFrom lo m' = true → (∀ a, Memory.lookup m a = Memory.lookup m' a) → m = m' from
    H m m' 0 hm hm' h
  clear hm hm' h m m'
  intro m
  induction m with
  | nil =>
    intro m' lo _ _ h
    cases m' with
    | nil => rfl
    | cons q rest => have := h q.1; simp [Memory.lookup] at this
  | cons p rest ih =>
    intro m' lo hm hm' h
    cases m' with
    | nil => have := h p.1; simp [Memory.lookup] at this
    | cons q rest' =>
      simp only [Memory.risesFrom, Bool.and_eq_true, decide_eq_true_eq] at hm hm'
      have hp := h p.1
      have hq := h q.1
      simp only [Memory.lookup, if_true] at hp hq
      have hadr : p.1 = q.1 := by
        rcases Nat.lt_trichotomy p.1 q.1 with hlt | heq | hgt
        · rw [if_neg (by omega), lookup_none_of_risesFrom rest' _ _ hm'.2 (by omega)] at hp
          exact absurd hp (by simp)
        · exact heq
        · rw [if_neg (by omega), lookup_none_of_risesFrom rest _ _ hm.2 (by omega)] at hq
          exact absurd hq (by simp)
      have hval : p.2 = q.2 := by rw [if_pos hadr] at hp; simpa using hp
      have hrest : rest = rest' := by
        refine ih rest' (p.1 + 1) hm.2 (hadr ▸ hm'.2) fun a => ?_
        by_cases ha : a = p.1
        · rw [lookup_none_of_risesFrom rest _ _ hm.2 (by omega),
            lookup_none_of_risesFrom rest' _ _ hm'.2 (by omega)]
        · have := h a
          simpa [Memory.lookup, ha, hadr ▸ ha] using this
      exact List.cons_eq_cons.mpr ⟨Prod.ext hadr hval, hrest⟩

end Sys2Proof.Machine
end

