-- ==== Sys2Proof/Laws/State.lean ====
section
/-! SUPPORT. One lemma for each field of State under each named update, all true by rfl. -/

namespace Sys2Proof.Machine

variable (s : State)

/-! ### emit -/

@[simp] theorem State.emit_cfg (os : List Output) : (s.emit os).cfg = s.cfg := rfl
@[simp] theorem State.emit_rb (os : List Output) : (s.emit os).rb = s.rb := rfl
@[simp] theorem State.emit_cnt (os : List Output) : (s.emit os).cnt = s.cnt := rfl
@[simp] theorem State.emit_init (os : List Output) : (s.emit os).init = s.init := rfl
@[simp] theorem State.emit_fb (os : List Output) : (s.emit os).fb = s.fb := rfl
@[simp] theorem State.emit_alt (os : List Output) : (s.emit os).alt = s.alt := rfl
@[simp] theorem State.emit_own (os : List Output) : (s.emit os).own = s.own := rfl
@[simp] theorem State.emit_dirty (os : List Output) : (s.emit os).dirty = s.dirty := rfl
@[simp] theorem State.emit_stopped (os : List Output) : (s.emit os).stopped = s.stopped := rfl
@[simp] theorem State.emit_redrawReq (os : List Output) : (s.emit os).redrawReq = s.redrawReq := rfl
@[simp] theorem State.emit_snapReq (os : List Output) : (s.emit os).snapReq = s.snapReq := rfl
@[simp] theorem State.emit_rx (os : List Output) : (s.emit os).rx = s.rx := rfl
@[simp] theorem State.emit_sched (os : List Output) : (s.emit os).sched = s.sched := rfl
@[simp] theorem State.emit_out (os : List Output) : (s.emit os).out = os := rfl
@[simp] theorem State.emit_resets (os : List Output) : (s.emit os).resets = s.resets := rfl
@[simp] theorem State.emit_grants (os : List Output) : (s.emit os).grants = s.grants := rfl

/-! ### setOwn -/

@[simp] theorem State.setOwn_cfg (o : Owner) : (s.setOwn o).cfg = s.cfg := rfl
@[simp] theorem State.setOwn_rb (o : Owner) : (s.setOwn o).rb = s.rb := rfl
@[simp] theorem State.setOwn_cnt (o : Owner) : (s.setOwn o).cnt = s.cnt := rfl
@[simp] theorem State.setOwn_init (o : Owner) : (s.setOwn o).init = s.init := rfl
@[simp] theorem State.setOwn_fb (o : Owner) : (s.setOwn o).fb = s.fb := rfl
@[simp] theorem State.setOwn_alt (o : Owner) : (s.setOwn o).alt = s.alt := rfl
@[simp] theorem State.setOwn_own (o : Owner) : (s.setOwn o).own = o := rfl
@[simp] theorem State.setOwn_dirty (o : Owner) : (s.setOwn o).dirty = s.dirty := rfl
@[simp] theorem State.setOwn_stopped (o : Owner) : (s.setOwn o).stopped = s.stopped := rfl
@[simp] theorem State.setOwn_redrawReq (o : Owner) : (s.setOwn o).redrawReq = s.redrawReq := rfl
@[simp] theorem State.setOwn_snapReq (o : Owner) : (s.setOwn o).snapReq = s.snapReq := rfl
@[simp] theorem State.setOwn_rx (o : Owner) : (s.setOwn o).rx = s.rx := rfl
@[simp] theorem State.setOwn_sched (o : Owner) : (s.setOwn o).sched = s.sched := rfl
@[simp] theorem State.setOwn_out (o : Owner) : (s.setOwn o).out = s.out := rfl
@[simp] theorem State.setOwn_resets (o : Owner) : (s.setOwn o).resets = s.resets := rfl
@[simp] theorem State.setOwn_grants (o : Owner) : (s.setOwn o).grants = s.grants := rfl

/-! ### setCnt -/

@[simp] theorem State.setCnt_cfg (n : Nat) : (s.setCnt n).cfg = s.cfg := rfl
@[simp] theorem State.setCnt_rb (n : Nat) : (s.setCnt n).rb = s.rb := rfl
@[simp] theorem State.setCnt_cnt (n : Nat) : (s.setCnt n).cnt = n := rfl
@[simp] theorem State.setCnt_init (n : Nat) : (s.setCnt n).init = s.init := rfl
@[simp] theorem State.setCnt_fb (n : Nat) : (s.setCnt n).fb = s.fb := rfl
@[simp] theorem State.setCnt_alt (n : Nat) : (s.setCnt n).alt = s.alt := rfl
@[simp] theorem State.setCnt_own (n : Nat) : (s.setCnt n).own = s.own := rfl
@[simp] theorem State.setCnt_dirty (n : Nat) : (s.setCnt n).dirty = s.dirty := rfl
@[simp] theorem State.setCnt_stopped (n : Nat) : (s.setCnt n).stopped = s.stopped := rfl
@[simp] theorem State.setCnt_redrawReq (n : Nat) : (s.setCnt n).redrawReq = s.redrawReq := rfl
@[simp] theorem State.setCnt_snapReq (n : Nat) : (s.setCnt n).snapReq = s.snapReq := rfl
@[simp] theorem State.setCnt_rx (n : Nat) : (s.setCnt n).rx = s.rx := rfl
@[simp] theorem State.setCnt_sched (n : Nat) : (s.setCnt n).sched = s.sched := rfl
@[simp] theorem State.setCnt_out (n : Nat) : (s.setCnt n).out = s.out := rfl
@[simp] theorem State.setCnt_resets (n : Nat) : (s.setCnt n).resets = s.resets := rfl
@[simp] theorem State.setCnt_grants (n : Nat) : (s.setCnt n).grants = s.grants := rfl

/-! ### storeSlot -/

@[simp] theorem State.storeSlot_cfg (k : Nat) (b : Byte) : (s.storeSlot k b).cfg = s.cfg := rfl
@[simp] theorem State.storeSlot_rb (k : Nat) (b : Byte) : (s.storeSlot k b).rb = Memory.store s.rb k b := rfl
@[simp] theorem State.storeSlot_cnt (k : Nat) (b : Byte) : (s.storeSlot k b).cnt = s.cnt := rfl
@[simp] theorem State.storeSlot_init (k : Nat) (b : Byte) : (s.storeSlot k b).init = s.init := rfl
@[simp] theorem State.storeSlot_fb (k : Nat) (b : Byte) : (s.storeSlot k b).fb = s.fb := rfl
@[simp] theorem State.storeSlot_alt (k : Nat) (b : Byte) : (s.storeSlot k b).alt = s.alt := rfl
@[simp] theorem State.storeSlot_own (k : Nat) (b : Byte) : (s.storeSlot k b).own = s.own := rfl
@[simp] theorem State.storeSlot_dirty (k : Nat) (b : Byte) : (s.storeSlot k b).dirty = s.dirty := rfl
@[simp] theorem State.storeSlot_stopped (k : Nat) (b : Byte) : (s.storeSlot k b).stopped = s.stopped := rfl
@[simp] theorem State.storeSlot_redrawReq (k : Nat) (b : Byte) : (s.storeSlot k b).redrawReq = s.redrawReq := rfl
@[simp] theorem State.storeSlot_snapReq (k : Nat) (b : Byte) : (s.storeSlot k b).snapReq = s.snapReq := rfl
@[simp] theorem State.storeSlot_rx (k : Nat) (b : Byte) : (s.storeSlot k b).rx = s.rx := rfl
@[simp] theorem State.storeSlot_sched (k : Nat) (b : Byte) : (s.storeSlot k b).sched = s.sched := rfl
@[simp] theorem State.storeSlot_out (k : Nat) (b : Byte) : (s.storeSlot k b).out = s.out := rfl
@[simp] theorem State.storeSlot_resets (k : Nat) (b : Byte) : (s.storeSlot k b).resets = s.resets := rfl
@[simp] theorem State.storeSlot_grants (k : Nat) (b : Byte) : (s.storeSlot k b).grants = s.grants := rfl

/-! ### markDirty -/

@[simp] theorem State.markDirty_cfg : s.markDirty.cfg = s.cfg := rfl
@[simp] theorem State.markDirty_rb : s.markDirty.rb = s.rb := rfl
@[simp] theorem State.markDirty_cnt : s.markDirty.cnt = s.cnt := rfl
@[simp] theorem State.markDirty_init : s.markDirty.init = s.init := rfl
@[simp] theorem State.markDirty_fb : s.markDirty.fb = s.fb := rfl
@[simp] theorem State.markDirty_alt : s.markDirty.alt = s.alt := rfl
@[simp] theorem State.markDirty_own : s.markDirty.own = s.own := rfl
@[simp] theorem State.markDirty_dirty : s.markDirty.dirty = true := rfl
@[simp] theorem State.markDirty_stopped : s.markDirty.stopped = s.stopped := rfl
@[simp] theorem State.markDirty_redrawReq : s.markDirty.redrawReq = s.redrawReq := rfl
@[simp] theorem State.markDirty_snapReq : s.markDirty.snapReq = s.snapReq := rfl
@[simp] theorem State.markDirty_rx : s.markDirty.rx = s.rx := rfl
@[simp] theorem State.markDirty_sched : s.markDirty.sched = s.sched := rfl
@[simp] theorem State.markDirty_out : s.markDirty.out = s.out := rfl
@[simp] theorem State.markDirty_resets : s.markDirty.resets = s.resets := rfl
@[simp] theorem State.markDirty_grants : s.markDirty.grants = s.grants := rfl

/-! ### commitRow -/

@[simp] theorem State.commitRow_cfg : s.commitRow.cfg = s.cfg := rfl
@[simp] theorem State.commitRow_rb : s.commitRow.rb = s.rb := rfl
@[simp] theorem State.commitRow_cnt : s.commitRow.cnt = 0 := rfl
@[simp] theorem State.commitRow_init : s.commitRow.init = true := rfl
@[simp] theorem State.commitRow_fb :
    s.commitRow.fb = Memory.writeRow s.fb (rowOffset s.cfg (rbAt s 2)) (payloadOf s) := rfl
@[simp] theorem State.commitRow_alt : s.commitRow.alt = s.alt := rfl
@[simp] theorem State.commitRow_own : s.commitRow.own = s.own := rfl
@[simp] theorem State.commitRow_dirty : s.commitRow.dirty = s.dirty := rfl
@[simp] theorem State.commitRow_stopped : s.commitRow.stopped = s.stopped := rfl
@[simp] theorem State.commitRow_redrawReq : s.commitRow.redrawReq = s.redrawReq := rfl
@[simp] theorem State.commitRow_snapReq : s.commitRow.snapReq = s.snapReq := rfl
@[simp] theorem State.commitRow_rx : s.commitRow.rx = s.rx := rfl
@[simp] theorem State.commitRow_sched : s.commitRow.sched = s.sched := rfl
@[simp] theorem State.commitRow_out : s.commitRow.out = s.out := rfl
@[simp] theorem State.commitRow_resets : s.commitRow.resets = s.resets := rfl
@[simp] theorem State.commitRow_grants : s.commitRow.grants = s.grants := rfl

/-! ### Reads through the updates -/

@[simp] theorem fbAt_emit (os : List Output) (a : Nat) : fbAt (s.emit os) a = fbAt s a := rfl
@[simp] theorem fbAt_setOwn (o : Owner) (a : Nat) : fbAt (s.setOwn o) a = fbAt s a := rfl
@[simp] theorem fbAt_setCnt (n a : Nat) : fbAt (s.setCnt n) a = fbAt s a := rfl
@[simp] theorem fbAt_storeSlot (k : Nat) (b : Byte) (a : Nat) : fbAt (s.storeSlot k b) a = fbAt s a := rfl
@[simp] theorem fbAt_markDirty (a : Nat) : fbAt s.markDirty a = fbAt s a := rfl
@[simp] theorem rbAt_emit (os : List Output) (k : Nat) : rbAt (s.emit os) k = rbAt s k := rfl
@[simp] theorem rbAt_setOwn (o : Owner) (k : Nat) : rbAt (s.setOwn o) k = rbAt s k := rfl
@[simp] theorem rbAt_setCnt (n k : Nat) : rbAt (s.setCnt n) k = rbAt s k := rfl
@[simp] theorem rbAt_markDirty (k : Nat) : rbAt s.markDirty k = rbAt s k := rfl
@[simp] theorem rbAt_commitRow (k : Nat) : rbAt s.commitRow k = rbAt s k := rfl

end Sys2Proof.Machine
end

