-- ==== Sys2Proof/Laws/Ops.lean ====
section
/-! SUPPORT. The shared operations, each said once: what it answers, and what it leaves. -/

namespace Sys2Proof.Machine

/-! ### Configuration -/

theorem Config_ok_iff (c : Config) : c.ok = true ↔ 1 ≤ c.L ∧ 1 ≤ c.H ∧ c.H ≤ 256 ∧ c.N = c.L := by
  simp [Config.ok, and_assoc]

/-- The clamp of R86: the offset of an index in range is the product, of any other 0. -/
theorem rowOffset_eq (c : Config) (r : Byte) (h : c.ok = true) :
    rowOffset c r = if r.toNat < c.H then r.toNat * c.L else 0 := by
  obtain ⟨hL, hH, _, _⟩ := (Config_ok_iff c).mp h
  have : r.toNat * c.L > maxOff c ↔ ¬ r.toNat < c.H := by
    rw [maxOff, gt_iff_lt, Nat.mul_lt_mul_right (by omega)]
    omega
  simp only [rowOffset, this]
  split <;> simp_all

/-- A row write at any row offset ends inside the framebuffer (R127, R131). -/
theorem rowOffset_add_le (c : Config) (r : Byte) (h : c.ok = true) : rowOffset c r + c.N ≤ c.P := by
  obtain ⟨hL, hH, _, hN⟩ := (Config_ok_iff c).mp h
  rw [rowOffset_eq c r h, hN, Config.P, Nat.mul_comm c.L c.H]
  split
  · next hr =>
    calc r.toNat * c.L + c.L = (r.toNat + 1) * c.L := by ring
      _ ≤ c.H * c.L := Nat.mul_le_mul_right _ hr
  · calc 0 + c.L = 1 * c.L := by ring
      _ ≤ c.H * c.L := Nat.mul_le_mul_right _ hH

/-- The lengths of an accepted configuration. -/
theorem T_of_ok (c : Config) (h : c.ok = true) : c.T = c.L + 3 ∧ 1 ≤ c.L ∧ c.N = c.L := by
  obtain ⟨hL, _, _, hN⟩ := (Config_ok_iff c).mp h
  exact ⟨by rw [Config.T, hN], hL, hN⟩

/-! ### Reads -/

theorem length_payloadOf (s : State) : (payloadOf s).length = s.cfg.N := by simp [payloadOf]

theorem getElem_payloadOf (s : State) (j : Nat) (h : j < (payloadOf s).length) :
    (payloadOf s)[j] = rbAt s (3 + j) := by simp [payloadOf]

theorem length_memReadAll (s : State) : (memReadAll s).length = s.cfg.P := by simp [memReadAll]

theorem getElem_memReadAll (s : State) (a : Nat) (h : a < (memReadAll s).length) :
    (memReadAll s)[a] = fbAt s a := by simp [memReadAll]

theorem rbAt_storeSlot (s : State) (k k' : Nat) (b : Byte) :
    rbAt (s.storeSlot k b) k' = if k' = k then b else rbAt s k' := by
  simp only [rbAt, State.storeSlot, lookup_store]
  split <;> rfl

/-- The framebuffer after a commit: the row holds the payload of the record buffer, every other cell is as before. -/
theorem fbAt_commitRow (s : State) (a : Nat) :
    fbAt s.commitRow a =
      if rowOffset s.cfg (rbAt s 2) ≤ a ∧ a < rowOffset s.cfg (rbAt s 2) + s.cfg.N then
        rbAt s (3 + (a - rowOffset s.cfg (rbAt s 2)))
      else fbAt s a := by
  simp only [fbAt, State.commitRow_fb, State.commitRow_resets, lookup_writeRow, length_payloadOf]
  split
  · next h =>
    rw [List.getElem?_eq_getElem (by rw [length_payloadOf]; omega), getElem_payloadOf, Option.getD_some]
  · rfl

/-! ### The frame of an operation -/

/-- An operation answers a next state exactly under an accepted configuration, and it is the effect. -/
theorem operate_next_iff (s t : State) (f : State → State) :
    operate s f = .next t ↔ s.cfg.ok = true ∧ t = f (s.emit []) := by
  unfold operate
  split <;> simp [*, eq_comm]

theorem operate_ok (s : State) (f : State → State) (h : s.cfg.ok = true) :
    operate s f = .next (f (s.emit [])) := by simp [operate, h]

theorem operate_bad (s : State) (f : State → State) (h : s.cfg.ok = false) :
    operate s f = .refused .badConfig := by simp [operate, h]

theorem underLock_free (agent : Owner) (s : State) (body : State → State) (h : s.own = .free) :
    underLock agent s body = (body (s.setOwn agent)).setOwn .free := by simp [underLock, h]

theorem underLock_held (agent : Owner) (s : State) (body : State → State) (h : s.own ≠ .free) :
    underLock agent s body = s := by simp [underLock, h]

/-- What the lock can do: the body has run and the lock is free again, or nothing has happened. -/
theorem underLock_cases (agent : Owner) (s : State) (body : State → State) :
    (s.own = .free ∧ underLock agent s body = (body (s.setOwn agent)).setOwn .free) ∨
    (s.own ≠ .free ∧ underLock agent s body = s) := by
  by_cases h : s.own = .free
  · exact .inl ⟨h, underLock_free agent s body h⟩
  · exact .inr ⟨h, underLock_held agent s body h⟩

theorem byteCase_enabled (s : State) (applies : Bool) (body : State → State) (hs : s.stopped = false)
    (ho : s.own = .free) (ha : applies = true) :
    byteCase s applies body = ((body (s.setOwn .dec)).markDirty).setOwn .free := by
  simp [byteCase, hs, ha, underLock_free _ _ _ ho]

theorem byteCase_stopped (s : State) (applies : Bool) (body : State → State) (hs : s.stopped = true) :
    byteCase s applies body = s := by simp [byteCase, hs]

/-- What one case of BYTE can do: it has happened, under the lock and with `dirty` set, or nothing has. -/
theorem byteCase_cases (s : State) (applies : Bool) (body : State → State) :
    (s.stopped = false ∧ s.own = .free ∧ applies = true ∧
      byteCase s applies body = ((body (s.setOwn .dec)).markDirty).setOwn .free) ∨
    byteCase s applies body = s := by
  unfold byteCase
  split
  · next h =>
    simp only [Bool.and_eq_true, Bool.not_eq_true'] at h
    rcases underLock_cases .dec s (fun s => (body s).markDirty) with ⟨ho, h'⟩ | ⟨_, h'⟩
    · exact .inl ⟨h.1, ho, h.2, h'⟩
    · exact .inr h'
  · exact .inr rfl

/-- A free lock given back is the same state. -/
theorem setOwn_free (s : State) (h : s.own = .free) : s.setOwn .free = s := by
  cases s
  simp_all [State.setOwn]

/-- A case of BYTE that has happened, for a body that does not look at the lock. -/
theorem byteCase_done (s : State) (applies : Bool) (body : State → State) (ho : s.own = .free)
    (hs : s.stopped = false) (ha : applies = true) (hcomm : body (s.setOwn .dec) = (body s).setOwn .dec)
    (hown : (body s).own = .free) : byteCase s applies body = (body s).markDirty := by
  rw [byteCase_enabled _ _ _ hs ho ha, hcomm]
  show ((body s).markDirty).setOwn .free = _
  exact setOwn_free _ hown

/-- A part of the state that the body, the lock and `dirty` leave alone is left alone by a case of BYTE. -/
theorem byteCase_frame {α : Type} (s : State) (applies : Bool) (body : State → State) (f : State → α)
    (hf : ∀ u, f (body u) = f u) (ho : ∀ u o, f (State.setOwn u o) = f u) (hd : ∀ u, f (State.markDirty u) = f u) :
    f (byteCase s applies body) = f s := by
  rcases byteCase_cases s applies body with ⟨_, _, _, h⟩ | h
  · rw [h, ho, hd, hf, ho]
  · rw [h]

/-- A part of the state that the body and the lock leave alone is left alone under the lock. -/
theorem underLock_frame {α : Type} (agent : Owner) (s : State) (body : State → State) (f : State → α)
    (hf : ∀ u, f (body u) = f u) (ho : ∀ u o, f (State.setOwn u o) = f u) : f (underLock agent s body) = f s := by
  rcases underLock_cases agent s body with ⟨_, h⟩ | ⟨_, h⟩
  · rw [h, ho, hf, ho]
  · rw [h]

/-- Between operations the lock stands as it stood. -/
theorem own_byteCase (s : State) (applies : Bool) (body : State → State) :
    (byteCase s applies body).own = s.own := by
  rcases byteCase_cases s applies body with ⟨_, h1, _, h⟩ | h
  · rw [h, h1]; rfl
  · rw [h]

theorem own_underLock (agent : Owner) (s : State) (body : State → State) :
    (underLock agent s body).own = s.own := by
  rcases underLock_cases agent s body with ⟨h1, h⟩ | ⟨_, h⟩
  · rw [h, h1]; rfl
  · rw [h]

end Sys2Proof.Machine
end

