-- ==== Sys2Proof/Laws/Exec.lean ====
section
/-! SUPPORT. What BYTE, the runs of BYTE and the operations as a whole can do, each said once. -/

namespace Sys2Proof.Machine

/-! ### BYTE -/

/-- BYTE writes `rb`, `cnt`, `fb` and `init` alone, before `dirty` (R40). -/
theorem byteBody_frame (b : Byte) (s : State) :
    byteBody b s = { s with
      rb := (byteBody b s).rb, cnt := (byteBody b s).cnt, fb := (byteBody b s).fb, init := (byteBody b s).init } := by
  unfold byteBody
  split
  · split <;> rfl
  · split
    · split
      · rfl
      · dsimp only; split <;> rfl
    · dsimp only; split <;> rfl

/-- BYTE does not look at the lock it runs under. -/
theorem byteBody_setOwn (b : Byte) (s : State) (o : Owner) :
    byteBody b (s.setOwn o) = (byteBody b s).setOwn o := by
  by_cases hT : s.cnt + 1 = s.cfg.T <;>
    simp only [byteBody, State.setOwn_cnt, State.setCnt_cnt, State.setCnt_cfg, State.storeSlot_cfg,
      State.setOwn_cfg, hT, if_true, if_false] <;> split_ifs <;> rfl

/-- The atomic BYTE of a ready decoder is R120's function and `dirty`. -/
theorem byteStep_ready (b : Byte) (s : State) (ho : s.own = .free) (hs : s.stopped = false) :
    byteStep b s = (byteBody b s).markDirty := by
  have hf : (byteBody b s).own = .free := by rw [byteBody_frame]; exact ho
  rw [byteStep, byteCase_enabled _ _ _ hs ho rfl, byteBody_setOwn]
  generalize byteBody b s = u at hf
  cases u
  simp_all [State.setOwn, State.markDirty]

/-- An atomic BYTE has happened whole, or nothing has. -/
theorem byteStep_cases (b : Byte) (s : State) :
    (s.own = .free ∧ s.stopped = false ∧ byteStep b s = (byteBody b s).markDirty) ∨ byteStep b s = s := by
  by_cases h : s.own = .free ∧ s.stopped = false
  · exact .inl ⟨h.1, h.2, byteStep_ready b s h.1 h.2⟩
  · rcases byteCase_cases s true (byteBody b) with ⟨hs, ho, _⟩ | h'
    · exact absurd ⟨ho, hs⟩ h
    · exact .inr h'

/-- The frame of any number of atomic BYTEs: `rb`, `cnt`, `fb`, `init` and `dirty` alone are written. -/
theorem foldl_byteStep_frame (bs : List Byte) (s : State) :
    let t := bs.foldl (fun s b => byteStep b s) s
    t = { s with rb := t.rb, cnt := t.cnt, fb := t.fb, init := t.init, dirty := t.dirty } := by
  induction bs generalizing s with
  | nil => rfl
  | cons b rest ih =>
    simp only [List.foldl_cons]
    have h : byteStep b s = { s with
        rb := (byteStep b s).rb, cnt := (byteStep b s).cnt, fb := (byteStep b s).fb,
        init := (byteStep b s).init, dirty := (byteStep b s).dirty } := by
      rcases byteStep_cases b s with ⟨_, _, h⟩ | h
      · rw [h, byteBody_frame]; rfl
      · rw [h]
    have := ih (byteStep b s)
    dsimp only at this
    rw [this]
    generalize byteStep b s = u at *
    rw [h]

/-- While `stopped` is set, or another owner holds the lock, no BYTE happens at all. -/
theorem foldl_byteStep_waits (bs : List Byte) (s : State) (h : s.stopped = true ∨ s.own ≠ .free) :
    bs.foldl (fun s b => byteStep b s) s = s := by
  induction bs with
  | nil => rfl
  | cons b rest ih =>
    have hb : byteStep b s = s := by
      rcases byteStep_cases b s with ⟨ho, hs, _⟩ | h'
      · rcases h with h | h
        · rw [hs] at h; cases h
        · exact absurd ho h
      · exact h'
    simp only [List.foldl_cons, hb, ih]

/-- A run of bytes in two parts. -/
theorem byteRun_append (xs ys : List Byte) (s : State) :
    byteRun (xs ++ ys) s = match byteRun xs s with
      | .next t => byteRun ys t
      | .fault r => .fault r
      | .refused r => .refused r := by
  induction xs generalizing s with
  | nil => rfl
  | cons x xs ih =>
    simp only [List.cons_append, byteRun]
    cases exec (streamInstr s x) s <;> simp [ih]

/-! ### Operations -/

/-- What ROWREC can write: what BYTE can write, and the outputs are cleared. -/
theorem rowrec_frame (r : Byte) (payload : List Byte) (s t : State) (h : exec (.rowrec r payload) s = .next t) :
    t = { s with rb := t.rb, cnt := t.cnt, fb := t.fb, init := t.init, dirty := t.dirty, out := [] } := by
  simp only [exec, execRowrec, operate_next_iff] at h
  obtain ⟨_, h⟩ := h
  split_ifs at h
  · have := foldl_byteStep_frame (recordBytes r payload) (s.emit [])
    dsimp only at this
    rw [← h] at this
    exact this
  · rw [h]; rfl

/-- Every operation is an effect in the common frame. -/
theorem exec_is_operate (i : Instr) : ∃ f : State → State, ∀ s, exec i s = operate s f := by
  cases i <;>
    simp only [exec, execSync1Hit, execSync1Skip, execSync2Hit, execSync2Restart, execSync2Drop, execFillStore,
      execFillCommit, execRowrec, execCellExpand, execPxT0, execPxT85, execPxT170, execPxT255, execReset, execRedraw,
      execSnapshot, execStop, execRefreshReq, execTxPlus, execTxM, execTxGt, execTxLt, execTxExit, execTxStart] <;>
    exact ⟨_, fun _ => rfl⟩

/-- Under an accepted configuration every operation answers a next state. -/
theorem exec_next (i : Instr) (s : State) (h : s.cfg.ok = true) : ∃ t, exec i s = .next t := by
  obtain ⟨f, hf⟩ := exec_is_operate i
  exact ⟨_, (hf s).trans (operate_ok s f h)⟩

/-- Only an accepted configuration has next states. -/
theorem cfgOk_of_exec_next (i : Instr) (s t : State) (h : exec i s = .next t) : s.cfg.ok = true := by
  obtain ⟨f, hf⟩ := exec_is_operate i
  exact ((operate_next_iff s t f).mp ((hf s).symm.trans h)).1

end Sys2Proof.Machine
end

