-- ==== Sys2Proof/Laws/Fetch.lean ====
section
/-! SUPPORT. What an event can do before an operation runs, and what it does where it brings none; whom the
arbiter picks; what a step can be. -/

namespace Sys2Proof.Machine

/-- Fetching an operation changes nothing but the bytes on offer. -/
theorem fetchEvent_frame (e : Event) (s s' : State) (i : Instr) (h : fetchEvent e s = some (i, s')) :
    s' = { s with rx := s'.rx } := by
  have ha : ∀ ch, s.accept ch = some (i, s') → s' = { s with rx := s'.rx } := by
    intro ch h
    simp only [State.accept] at h
    split at h
    · simp only [Option.some.injEq, Prod.mk.injEq] at h; rw [← h.2]
    · cases h
  have hb : ∀ ch bs, s.apart ch bs = some (i, s') → s' = { s with rx := s'.rx } := by
    intro ch bs h
    simp only [State.apart, Option.map_eq_some_iff] at h
    obtain ⟨_, _, h⟩ := h
    simp only [Prod.mk.injEq] at h
    rw [← h.2]
  cases e <;> simp only [fetchEvent] at h <;> (try split_ifs at h) <;> first
    | exact ha _ h
    | exact hb _ _ h
    | cases h

/-- An event that brings no operation touches only the bytes on offer and the two latches. -/
theorem interfaceEffect_frame (e : Event) (s : State) :
    interfaceEffect e s = { s with
      rx := (interfaceEffect e s).rx
      redrawReq := (interfaceEffect e s).redrawReq
      snapReq := (interfaceEffect e s).snapReq } := by
  cases e <;> simp only [interfaceEffect] <;> (try split_ifs) <;> (try rfl)
  split <;> rfl

/-! ### The arbiter -/

/-- The arbiter picks nobody only where nobody waits. -/
theorem arbitrate_eq_none_iff (ws : List Event) (n : Nat) : arbitrate ws n = none ↔ ws = [] := by
  match ws with
  | [] => simp [arbitrate]
  | [e] => simp [arbitrate]
  | e :: e' :: rest =>
    have h : n % (rest.length + 2) < (e :: e' :: rest).length := Nat.mod_lt _ (by simp)
    simp only [arbitrate, List.getElem?_eq_getElem h]
    simp

/-- The arbiter picks one of those that wait, whatever the number. -/
theorem arbitrate_mem (ws : List Event) (n : Nat) (e : Event) (h : arbitrate ws n = some e) : e ∈ ws := by
  match ws with
  | [] => simp [arbitrate] at h
  | [_] => simp only [arbitrate, Option.some.injEq] at h; simp [h]
  | _ :: _ :: _ => exact List.mem_of_getElem? h

/-- Who waits: nobody but the decoder agent with a byte, and the two readers with a request; all under a free lock. -/
theorem mem_waiting (s : State) (e : Event) :
    e ∈ s.waiting ↔ s.own = .free ∧
      ((e = .grantDec ∧ s.stopped = false ∧ s.rx ≠ []) ∨ (e = .grantRen ∧ s.redrawReq = true) ∨
       (e = .grantSnap ∧ s.snapReq = true)) := by
  by_cases ho : s.own = .free
  · simp [State.waiting, ho, List.mem_ite_nil_right, and_comm]
  · simp [State.waiting, ho]

/-- Nobody waits. -/
theorem waiting_eq_nil_iff (s : State) :
    s.waiting = [] ↔
      s.own ≠ .free ∨ (s.redrawReq = false ∧ s.snapReq = false ∧ (s.stopped = true ∨ s.rx = [])) := by
  unfold State.waiting
  by_cases ho : s.own = .free
  · by_cases h1 : s.stopped = false ∧ s.rx ≠ [] <;> by_cases h2 : s.redrawReq = true <;>
      by_cases h3 : s.snapReq = true <;> simp_all
    cases hs : s.stopped <;> simp_all
  · simp [ho]

/-- A grant to an agent that waits brings its operation. -/
theorem fetchEvent_of_waiting (s u : State) (e : Event) (h : e ∈ s.waiting)
    (hu : u.own = s.own ∧ u.stopped = s.stopped ∧ u.rx = s.rx ∧ u.cfg = s.cfg ∧ u.cnt = s.cnt ∧
      u.redrawReq = s.redrawReq ∧ u.snapReq = s.snapReq) :
    (e = .grantRen ∧ s.redrawReq = true ∧ fetchEvent e u = some (.redraw, u)) ∨
    (e = .grantSnap ∧ s.snapReq = true ∧ fetchEvent e u = some (.snapshot, u)) ∨
    (e = .grantDec ∧ s.stopped = false ∧
      ∃ b rest, s.rx = b :: rest ∧ fetchEvent e u = some (streamInstr s b, { u with rx := rest })) := by
  obtain ⟨h1, h2, h3, h4, h5, h6, h7⟩ := hu
  obtain ⟨ho, ⟨rfl, hs, hr⟩ | ⟨rfl, hr⟩ | ⟨rfl, hr⟩⟩ := (mem_waiting s e).mp h
  · refine .inr (.inr ⟨rfl, hs, ?_⟩)
    cases hrx : s.rx with
    | nil => exact absurd hrx hr
    | cons b rest =>
      refine ⟨b, rest, rfl, ?_⟩
      simp [fetchEvent, State.inReady, State.accept, decode, streamInstr, h1, h2, h3, h4, h5, ho, hs, hrx]
  · exact .inl ⟨rfl, hr, by simp [fetchEvent, State.apart, decodeWhole, decode, decodeWire, h1, h6, ho, hr]⟩
  · exact .inr (.inl ⟨rfl, hr, by simp [fetchEvent, State.apart, decodeWhole, decode, decodeWire, h1, h7, ho, hr]⟩)

/-! ### The step -/

/-- Taking the next event changes nothing but the schedule and the count of the arbiter's choices. -/
theorem nextEvent_frame (s s1 : State) (e : Event) (h : s.nextEvent = some (e, s1)) :
    s1 = { s with sched := s1.sched, grants := s1.grants } := by
  unfold State.nextEvent at h
  split at h
  · simp only [Option.some.injEq, Prod.mk.injEq] at h
    rw [← h.2]
  · simp only [Option.map_eq_some_iff, Prod.mk.injEq] at h
    obtain ⟨_, _, _, h⟩ := h
    rw [← h]

/-- Where the next event comes from: the schedule, or, at its end, the arbiter. -/
theorem nextEvent_cases (s : State) :
    (∃ e es, s.sched = e :: es ∧ s.nextEvent = some (e, { s with sched := es })) ∨
    (s.sched = [] ∧ s.waiting = [] ∧ s.nextEvent = none) ∨
    (s.sched = [] ∧ ∃ e ∈ s.waiting, s.nextEvent = some (e, { s with grants := s.grants + 1 })) := by
  unfold State.nextEvent
  cases hs : s.sched with
  | cons e es => exact .inl ⟨e, es, rfl, rfl⟩
  | nil =>
    cases ha : arbitrate s.waiting (Config.arbiter s.grants) with
    | none => exact .inr (.inl ⟨rfl, (arbitrate_eq_none_iff _ _).mp ha, by simp⟩)
    | some e => exact .inr (.inr ⟨rfl, e, arbitrate_mem _ _ _ ha, by simp⟩)

/-- What a step can be: idle, an operation, or an event at the interface. -/
theorem step_cases (s : State) :
    (s.sched = [] ∧ s.waiting = [] ∧ step s = operate s fun s => s) ∨
    (∃ e s1, s.nextEvent = some (e, s1) ∧
      ((∃ i s2, fetchEvent e s1 = some (i, s2) ∧ step s = exec i s2) ∨
       (fetchEvent e s1 = none ∧ step s = operate s1 (interfaceEffect e)))) := by
  unfold step runEvent
  cases hn : s.nextEvent with
  | none =>
    rcases nextEvent_cases s with ⟨_, _, _, h⟩ | ⟨hs, hw, _⟩ | ⟨_, _, _, h⟩
    · rw [hn] at h; cases h
    · exact .inl ⟨hs, hw, rfl⟩
    · rw [hn] at h; cases h
  | some p =>
    refine .inr ⟨p.1, p.2, rfl, ?_⟩
    cases hf : fetchEvent p.1 p.2 with
    | none => exact .inr ⟨rfl, by simp [hf]⟩
    | some q => exact .inl ⟨q.1, q.2, rfl, by simp [hf]⟩

/-- One step of a run. -/
theorem run_succ (k : Nat) (s t : State) (h : step s = .next t) :
    Sys2Proof.core.run (k + 1) s = Sys2Proof.core.run k t := by
  simp only [Host.Core.run]
  rw [show Sys2Proof.core.step s = .next t from h]

end Sys2Proof.Machine
end

