-- ==== Sys2Proof/Laws/PerInstr.lean ====
section
/-! SUPPORT. Statements about every operation as syntax, one lemma for each constructor: reading an encoding back. -/

namespace Sys2Proof.Laws.RoundTrip

/-- Reading back the encoding of a well-formed operation gives it, and what follows it. -/
def Statement (i : Instr) : Prop :=
  ∀ (c : Config) (rest : List Byte), i.wf c = true →
    decode (channelOf i) (encode i ++ rest) = .ok (i, rest)

theorem sync1Hit : Statement .sync1Hit := fun _ _ _ => rfl

theorem sync1Skip (b : Byte) : Statement (.sync1Skip b) := by
  intro c rest h
  simp only [Instr.wf, decide_eq_true_eq] at h
  simp [channelOf, encode, decode, decodeStream, h]

theorem sync2Hit : Statement .sync2Hit := fun _ _ _ => rfl

theorem sync2Restart : Statement .sync2Restart := fun _ _ _ => rfl

theorem sync2Drop (b : Byte) : Statement (.sync2Drop b) := by
  intro c rest h
  simp only [Instr.wf, Bool.and_eq_true, decide_eq_true_eq] at h
  simp [channelOf, encode, decode, decodeStream, h.1, h.2]

theorem fillStore (b : Byte) : Statement (.fillStore b) := fun _ _ _ => rfl

theorem fillCommit (b : Byte) : Statement (.fillCommit b) := fun _ _ _ => rfl

theorem rowrec (r : Byte) (payload : List Byte) : Statement (.rowrec r payload) := by
  intro c rest _
  have h : (0x59#8 : Byte) = syncA ∧ (0x32#8 : Byte) = syncB := ⟨rfl, rfl⟩
  simp [channelOf, encode, decode, decodeRecord, h]

theorem cellExpand (b : Byte) : Statement (.cellExpand b) := fun _ _ _ => rfl

theorem pxT0 : Statement .pxT0 := fun _ _ _ => rfl

theorem pxT85 : Statement .pxT85 := fun _ _ _ => rfl

theorem pxT170 : Statement .pxT170 := fun _ _ _ => rfl

theorem pxT255 : Statement .pxT255 := fun _ _ _ => rfl

theorem reset : Statement .reset := fun _ _ _ => rfl

theorem redraw : Statement .redraw := fun _ _ _ => rfl

theorem snapshot : Statement .snapshot := fun _ _ _ => rfl

theorem stop : Statement .stop := fun _ _ _ => rfl

theorem refreshReq : Statement .refreshReq := fun _ _ _ => rfl

theorem txPlus : Statement .txPlus := fun _ _ _ => rfl

theorem txM : Statement .txM := fun _ _ _ => rfl

theorem txGt : Statement .txGt := fun _ _ _ => rfl

theorem txLt : Statement .txLt := fun _ _ _ => rfl

theorem txExit : Statement .txExit := fun _ _ _ => rfl

theorem txStart : Statement .txStart := fun _ _ _ => rfl

end Sys2Proof.Laws.RoundTrip
end

