-- ==== Sys2Proof/Laws/Renderer.lean ====
section
/-! SUPPORT. The tone table and the cells of a pass: the small facts statements about the renderer go through. -/

namespace Sys2Proof.Machine

/-- The exact value of a tone (R85). -/
theorem toneOf_toNat (c : Code) : (toneOf c).toNat = 85 * c.toNat := by revert c; decide

/-- Different codes have different tones. -/
theorem toneOf_inj (c d : Code) : toneOf c = toneOf d ↔ c = d := by revert c d; decide

/-- A group as a number (R52). -/
theorem group_toNat (b : Byte) (k : Nat) : (group b k).toNat = (b.toNat >>> (6 - 2 * k)) % 4 := by simp [group]

/-- The lit predicate, code by code (R144). -/
theorem lit_toneOf (c : Code) (a : Nat) :
    lit (toneOf c) a = (c == 0#2 || (c == 1#2 && a != 0) || (c == 2#2 && a == 0)) := by
  have h : ∀ d : Code, (toneOf c == toneOf d) = (c == d) := by
    intro d
    rw [Bool.eq_iff_iff, beq_iff_eq, beq_iff_eq, toneOf_inj]
  rw [← h 0#2, ← h 1#2, ← h 2#2]
  rfl

/-- The pixels of one cell, in group order (R140 step 2). -/
theorem cellPixels_eq (c : Config) (a : Nat) (b : Byte) (i : Nat) :
    cellPixels c a b i = (List.range 4).map fun k =>
      { x := 4 * (i % c.L) + k, y := i / c.L, lit := lit (toneOf (group b k)) a } := rfl

/-- A pass over `n` cells has `4 * n` beats. -/
theorem length_plane (c : Config) (a : Nat) (cells : List Byte) : (plane c a cells).length = 4 * cells.length := by
  have h : ∀ p : Byte × Nat, (cellPixels c a p.1 p.2).length = 4 := fun _ => rfl
  simp only [plane, List.length_flatMap, h]
  simp [List.map_const', Nat.mul_comm]

end Sys2Proof.Machine
end

