-- ==== Sys2Proof/Machine/Ports.lean ====
section
/-! DEFINITION. The ports of 10_state.md R41 as they stand after a step, at the level of whole operations (R12): the
levels are read from the state, and the pulses and beats from what the latest step emitted. The input wires and pulses
are the events of `Event`; the clocks are left out (R73). -/

namespace Sys2Proof.Machine

/-- The ports (R41, R155, R160, R182). -/
structure Ports where
  /-- `in_valid`: a byte is offered. -/
  inValid : Bool
  /-- `in_data`: the offered byte. -/
  inData : Option Byte
  /-- `in_ready`: an offered byte would be accepted. -/
  inReady : Bool
  /-- `stopped_o`. -/
  stoppedO : Bool
  /-- `init_o`. -/
  initO : Bool
  /-- The pulse `refresh_req`. -/
  refreshReq : Bool
  /-- `redraw_busy`: a REDRAW is pending. -/
  redrawBusy : Bool
  /-- The beats `(pix_x, pix_y, pix_lit)` of the latest step, in order. -/
  pixBeats : List Pixel
  /-- `frame_done`, with `(border_en, overlay_en)`. -/
  frameDone : Option (Bool × Bool)
  /-- The bytes on `snap_data` of the latest step, in order. -/
  snapData : List Byte
  /-- `snap_done`. -/
  snapDone : Bool
  deriving DecidableEq, Repr

/-- The beats of one output. -/
def Output.beats (o : Output) : List Pixel :=
  match o with
  | .frame pix _ _ => pix
  | .snapByte _ => []
  | .snapDone => []
  | .refreshReq => []
  | .tones _ _ _ _ => []
  | .pixel _ _ => []

/-- The flags that come with the end of a pass. -/
def Output.frameFlags (o : Output) : Option (Bool × Bool) :=
  match o with
  | .frame _ borderEn overlayEn => some (borderEn, overlayEn)
  | .snapByte _ => none
  | .snapDone => none
  | .refreshReq => none
  | .tones _ _ _ _ => none
  | .pixel _ _ => none

/-- The snapshot byte of one output. -/
def Output.snapByte? (o : Output) : Option Byte :=
  match o with
  | .frame _ _ _ => none
  | .snapByte b => some b
  | .snapDone => none
  | .refreshReq => none
  | .tones _ _ _ _ => none
  | .pixel _ _ => none

/-- The ports after a step. -/
def State.ports (s : State) : Ports where
  inValid := s.inValid
  inData := s.rx.head?
  inReady := s.inReady
  stoppedO := s.stoppedO
  initO := s.initO
  refreshReq := s.out.contains .refreshReq
  redrawBusy := s.redrawBusy
  pixBeats := s.out.flatMap Output.beats
  frameDone := s.out.findSome? Output.frameFlags
  snapData := s.out.filterMap Output.snapByte?
  snapDone := s.out.contains .snapDone

end Sys2Proof.Machine
end

