-- ==== Sys2Proof/Tests/Slice0.lean ====
section
/-! SUPPORT. Checks of this model: ill-formed operations refused, words written out from 30_encoding.md read back, one
step of each operation against the vectors of 95_test_vectors.md, and for each statement with hypotheses a state that
meets them. -/

namespace Sys2Proof.Tests

open Sys2Proof Sys2Proof.Machine

/-! ### Small states -/

/-- Configuration TC1 of 95_test_vectors.md. -/
def tc1 : Config := { L := 2, H := 3, N := 2 }

/-- The smallest configuration, of V-DEC9. -/
def tc0 : Config := { L := 1, H := 1, N := 1 }

/-- The largest row count (R5). -/
def tcMax : Config := { L := 1, H := 256, N := 1 }

/-- TC1 after `n` bytes of the record `59 32 r AA 55`. -/
def filled (r : Byte) (n : Nat) : State :=
  { State.resetWith tc1 with rb := [(0, 0x59#8), (1, 0x32#8), (2, r), (3, 0xAA#8)].take n, cnt := n }

/-- TC1 with a whole framebuffer, as after FBINIT. -/
def imaged (bs : List Byte) : State :=
  { State.resetWith tc1 with fb := bs.zipIdx.map fun p => (p.2, p.1), init := true }

/-- The smallest block at its last byte. -/
def smallLast : State :=
  { State.resetWith tc0 with rb := [(0, 0x59#8), (1, 0x32#8), (2, 0#8)], cnt := 3 }

/-- The next state, if there is one. -/
def nextOf (o : Host.Outcome State Fault Refusal) : Option State :=
  match o with
  | .next s => some s
  | .fault _ => none
  | .refused _ => none

/-- The lit flags of a plane, in pass order. -/
def lits (o : Output) : List Bool :=
  match o with
  | .frame pix _ _ => pix.map (·.lit)
  | .snapByte _ => []
  | .snapDone => []
  | .refreshReq => []
  | .tones _ _ _ _ => []
  | .pixel _ _ => []

/-! ### Ill-formed operations (opcode table: "excludes"; R81) -/

theorem test_wf_sync1Skip_refuses_syncA : (Instr.sync1Skip 0x59#8).wf tc1 = false := by decide
theorem test_wf_sync2Drop_refuses_syncA : (Instr.sync2Drop 0x59#8).wf tc1 = false := by decide
theorem test_wf_sync2Drop_refuses_syncB : (Instr.sync2Drop 0x32#8).wf tc1 = false := by decide
theorem test_wf_rowrec_refuses_short : (Instr.rowrec 0#8 [1#8]).wf tc1 = false := by decide
theorem test_wf_rowrec_refuses_long : (Instr.rowrec 0#8 [1#8, 2#8, 3#8]).wf tc1 = false := by decide
theorem test_wf_accepts :
    (Instr.sync1Skip 0x32#8).wf tc1 = true ∧ (Instr.rowrec 0xFF#8 [1#8, 2#8]).wf tc1 = true := by decide

/-! ### Words written out from the spec's encodings (R81, R84, R85, R89, R91, R96) -/

theorem test_decode_sync1Hit : decode (.stream .awaitingSync1) [0b01011001#8] = .ok (.sync1Hit, []) := by decide
theorem test_decode_sync1Skip :
    decode (.stream .awaitingSync1) [0b00110010#8] = .ok (.sync1Skip 0x32#8, []) := by decide
theorem test_decode_sync2Hit : decode (.stream .awaitingSync2) [0b00110010#8] = .ok (.sync2Hit, []) := by decide
theorem test_decode_sync2Restart :
    decode (.stream .awaitingSync2) [0b01011001#8] = .ok (.sync2Restart, []) := by decide
theorem test_decode_sync2Drop :
    decode (.stream .awaitingSync2) [0b00110011#8] = .ok (.sync2Drop 0x33#8, []) := by decide
theorem test_decode_fillStore : decode (.stream .filling) [0b01011001#8] = .ok (.fillStore 0x59#8, []) := by decide
theorem test_decode_fillCommit :
    decode (.stream .lastByte) [0b00110010#8] = .ok (.fillCommit 0x32#8, []) := by decide
theorem test_decode_rowrec :
    decode (.record 2) [0b01011001#8, 0b00110010#8, 0b00000001#8, 0b10101010#8, 0b01010101#8, 0x07#8] =
      .ok (.rowrec 1#8 [0xAA#8, 0x55#8], [0x07#8]) := by decide
theorem test_decode_cellExpand : decode .cell [0b00011011#8] = .ok (.cellExpand 0x1B#8, []) := by decide
theorem test_decode_tones :
    decode .tone [0b00000000#8] = .ok (.pxT0, []) ∧ decode .tone [0b00000001#8] = .ok (.pxT85, []) ∧
    decode .tone [0b00000010#8] = .ok (.pxT170, []) ∧ decode .tone [0b00000011#8] = .ok (.pxT255, []) := by decide
theorem test_decode_wires :
    decode (.wire .reset) [] = .ok (.reset, []) ∧ decode (.wire .redraw) [] = .ok (.redraw, []) ∧
    decode (.wire .snapshot) [] = .ok (.snapshot, []) ∧ decode (.wire .stop) [] = .ok (.stop, []) ∧
    decode (.wire .refreshReq) [] = .ok (.refreshReq, []) := by decide
theorem test_decode_upstream :
    decode .upstream [0b00101011#8] = .ok (.txPlus, []) ∧ decode .upstream [0b01001101#8] = .ok (.txM, []) ∧
    decode .upstream [0b00111110#8] = .ok (.txGt, []) ∧ decode .upstream [0b00111100#8] = .ok (.txLt, []) ∧
    decode .upstream [0b01110011#8] = .ok (.txExit, []) ∧
    decode .upstream [0b01010011#8, 0b00110010#8] = .ok (.txStart, []) := by decide
theorem test_decode_rejects :
    decode .tone [0b00000100#8] = .error .notAToneCode ∧ decode .upstream [0x41#8] = .error .notUpstream ∧
    decode .upstream [0x53#8] = .error .truncated ∧ decode (.record 2) [0x59#8, 0x59#8, 0#8, 0#8, 0#8] =
      .error .notARecord ∧ decode (.record 2) [0x59#8, 0x32#8, 0#8, 0#8] = .error .truncated := by decide
theorem test_decode_table_words :
    decodeTableWord 8 0x59 = some .sync1Hit ∧ decodeTableWord 8 0x32 = some .sync2Hit ∧
    decodeTableWord 8 0x2B = some .txPlus ∧ decodeTableWord 16 0x5332 = some .txStart ∧
    decodeTableWord 2 0b10 = some .pxT170 ∧ decodeTableWord 0 0 = some .reset ∧
    decodeTableWord 24 0x593207 = some (.rowrec 7#8 (List.replicate 32 0#8)) := by decide

/-! ### One step each (95_test_vectors.md) -/

/-- V-DEC1, byte 1. -/
theorem test_sync1Hit :
    (nextOf (exec .sync1Hit (filled 1#8 0))).map (fun t => (t.cnt, t.rb, t.dirty)) =
      some (1, [(0, 0x59#8)], true) := by decide
/-- V-DEC7, byte 3: `32` at `cnt = 0`. -/
theorem test_sync1Skip :
    (nextOf (exec (.sync1Skip 0x32#8) (filled 1#8 0))).map (fun t => (t.cnt, t.rb, t.dirty)) =
      some (0, [], true) := by decide
/-- V-DEC1, byte 2. -/
theorem test_sync2Hit :
    (nextOf (exec .sync2Hit (filled 1#8 1))).map (fun t => (t.cnt, t.rb)) =
      some (2, [(0, 0x59#8), (1, 0x32#8)]) := by decide
/-- V-DEC2, byte 2. -/
theorem test_sync2Restart :
    (nextOf (exec .sync2Restart (filled 1#8 1))).map (fun t => (t.cnt, t.rb)) = some (1, [(0, 0x59#8)]) := by decide
/-- V-DEC4, byte 4. -/
theorem test_sync2Drop :
    (nextOf (exec (.sync2Drop 0x33#8) (filled 1#8 1))).map (fun t => (t.cnt, t.dirty)) = some (0, true) := by decide
/-- V-DEC4, byte 10: a sync byte is payload past `cnt = 2`. -/
theorem test_fillStore :
    (nextOf (exec (.fillStore 0x59#8) (filled 0#8 3))).map (fun t => (t.cnt, rbAt t 3, t.fb)) =
      some (4, 0x59#8, []) := by decide
/-- V-DEC1, byte 5. -/
theorem test_fillCommit :
    (nextOf (exec (.fillCommit 0x55#8) (filled 1#8 4))).map (fun t => (t.cnt, t.init, t.fb)) =
      some (0, true, [(2, 0xAA#8), (3, 0x55#8)]) := by decide
/-- V-DEC3: `r = 3 >= H`, row 0. -/
theorem test_fillCommit_clamps :
    (nextOf (exec (.fillCommit 0x55#8) (filled 3#8 4))).map (·.fb) = some [(0, 0xAA#8), (1, 0x55#8)] := by decide
/-- V-DEC3c: `r = H - 1` is not clamped. -/
theorem test_rowrec :
    (nextOf (exec (.rowrec 2#8 [0xC0#8, 0xDE#8]) (filled 1#8 0))).map (fun t => (t.cnt, t.init, t.fb)) =
      some (0, true, [(4, 0xC0#8), (5, 0xDE#8)]) := by decide
/-- V-DEC13: from `cnt = 1`. -/
theorem test_rowrec_from_one :
    (nextOf (exec (.rowrec 0#8 [0xAB#8, 0xCD#8]) (filled 1#8 1))).map (·.fb) =
      some [(0, 0xAB#8), (1, 0xCD#8)] := by decide
/-- V-LUT2, `0x1B`. -/
theorem test_cellExpand :
    (nextOf (exec (.cellExpand 0x1B#8) (filled 1#8 0))).map (·.out) =
      some [.tones 0#8 85#8 170#8 255#8] := by decide
/-- V-LUT2, `0x6C`. -/
theorem test_cellExpand_order :
    (nextOf (exec (.cellExpand 0x6C#8) (filled 1#8 0))).map (·.out) =
      some [.tones 85#8 170#8 255#8 0#8] := by decide
/-- S5: tone 0 always renders. -/
theorem test_pxT0 :
    (nextOf (exec .pxT0 { filled 1#8 0 with alt := 1 })).map (·.out) = some [.pixel 0#8 true] := by decide
/-- S5: tone 85 renders iff the counter is not 0. -/
theorem test_pxT85 :
    (nextOf (exec .pxT85 { filled 1#8 0 with alt := 2 })).map (·.out) = some [.pixel 85#8 true] := by decide
theorem test_pxT85_dark : (nextOf (exec .pxT85 (filled 1#8 0))).map (·.out) = some [.pixel 85#8 false] := by decide
/-- S5: tone 170 renders iff the counter is 0. -/
theorem test_pxT170 : (nextOf (exec .pxT170 (filled 1#8 0))).map (·.out) = some [.pixel 170#8 true] := by decide
theorem test_pxT170_dark :
    (nextOf (exec .pxT170 { filled 1#8 0 with alt := 1 })).map (·.out) = some [.pixel 170#8 false] := by decide
/-- S5: tone 255 never renders. -/
theorem test_pxT255 : (nextOf (exec .pxT255 (filled 1#8 0))).map (·.out) = some [.pixel 255#8 false] := by decide
/-- V-HST5. -/
theorem test_reset :
    (nextOf (exec .reset { filled 1#8 4 with init := true, alt := 2, dirty := true, stopped := true })).map
      (fun t => ((t.cnt, t.init, t.alt), t.dirty, t.stopped)) = some ((0, false, 0), false, false) := by decide
/-- P1, redraw 1: `####....` / `####....` / `#.#..#.#` at `alt = 0`. -/
theorem test_redraw :
    (nextOf (exec .redraw (imaged [0x00#8, 0x55#8, 0xAA#8, 0xFF#8, 0x1B#8, 0xE4#8]))).map
      (fun t => (t.alt, t.out.map lits)) =
      some (1, [[true, true, true, true, false, false, false, false,
                 true, true, true, true, false, false, false, false,
                 true, false, true, false, false, true, false, true]]) := by decide
/-- P1, redraw 3: `########` / `........` / `##....##` at `alt = 2`, then the counter wraps. -/
theorem test_redraw_wraps :
    (nextOf (exec .redraw { imaged [0x00#8, 0x55#8, 0xAA#8, 0xFF#8, 0x1B#8, 0xE4#8] with alt := 2 })).map
      (fun t => (t.alt, t.out.map lits)) =
      some (0, [[true, true, true, true, true, true, true, true,
                 false, false, false, false, false, false, false, false,
                 true, true, false, false, false, false, true, true]]) := by decide
/-- V-SNP1. -/
theorem test_snapshot :
    (nextOf (exec .snapshot (imaged [0x11#8, 0x12#8, 0x21#8, 0x22#8, 0x31#8, 0x32#8]))).map (·.out) =
      some [.snapByte 0x31#8, .snapByte 0x32#8, .snapByte 0x21#8, .snapByte 0x22#8, .snapByte 0x11#8,
        .snapByte 0x12#8, .snapDone] := by decide
/-- V-HST3. -/
theorem test_stop : (nextOf (exec .stop (filled 1#8 2))).map (fun t => (t.cnt, t.stopped)) = some (2, true) := by decide
/-- V-HST1, the first DRAIN. -/
theorem test_refreshReq :
    (nextOf (exec .refreshReq { filled 1#8 0 with dirty := true })).map (fun t => (t.dirty, t.out)) =
      some (false, [.refreshReq]) := by decide
/-- V-HST4: none after STOP. -/
theorem test_refreshReq_stopped :
    (nextOf (exec .refreshReq { filled 1#8 4 with dirty := true, stopped := true })).map
      (fun t => (t.dirty, t.out)) = some (true, []) := by decide
/-- R184: the upstream bytes leave the block alone. -/
theorem test_upstream :
    [Instr.txPlus, .txM, .txGt, .txLt, .txExit, .txStart].all
      (fun i => nextOf (exec i (filled 1#8 4)) == some (filled 1#8 4)) = true := by decide

/-! ### Steps -/

/-- V-HST3, its last line: after STOP the byte on offer stays on offer. -/
theorem test_step_stopped_accepts_nothing :
    (nextOf (step { filled 1#8 2 with stopped := true, rx := [0#8], sched := [.grantDec] })).map
      (fun t => (t.cnt, t.rx)) = some (2, [0#8]) := by decide
/-- A byte on offer is accepted when the lock is given. -/
theorem test_step_accepts :
    (nextOf (step { filled 1#8 2 with rx := [1#8, 2#8], sched := [.grantDec] })).map
      (fun t => (t.cnt, t.rx, t.sched)) = some (3, [2#8], []) := by decide
/-- R65: at the end of the schedule the one agent that waits is granted, here the decoder with a byte on offer. -/
theorem test_step_arbiter_grants :
    (nextOf (step { filled 1#8 2 with rx := [1#8, 2#8] })).map (fun t => (t.cnt, t.rx, t.grants)) =
      some (3, [2#8], 1) := by decide
/-- R65: or the renderer with a tick latched. -/
theorem test_step_arbiter_redraws :
    (nextOf (step { filled 1#8 2 with redrawReq := true })).map (fun t => (t.alt, t.redrawReq, t.cnt)) =
      some (1, false, 2) := by decide
/-- The word `0x59` placed for the host runs as SYNC1_HIT. -/
theorem test_withFetchWord :
    (nextOf (step (State.reset.withFetchWord 8 0x59))).map (fun t => (t.cnt, t.rx)) = some (1, []) := by decide
/-- A configuration with `N` other than `L` is refused (R6). -/
theorem test_bad_configuration :
    nextOf (step (State.resetWith { L := 2, H := 3, N := 3 })) = none := by decide

/-- The ports of R41: V-SNP1 on `snap_data`, and V-REN3 step 1 on the two flags of a pass. -/
theorem test_ports_snapshot :
    (nextOf (exec .snapshot (imaged [0x11#8, 0x12#8, 0x21#8, 0x22#8, 0x31#8, 0x32#8]))).map
      (fun t => (t.ports.snapData, t.ports.snapDone, t.ports.frameDone)) =
      some ([0x31#8, 0x32#8, 0x21#8, 0x22#8, 0x11#8, 0x12#8], true, none) := by decide
theorem test_ports_overlay :
    (nextOf (exec .redraw (filled 1#8 0))).map (fun t => (t.ports.frameDone, t.ports.pixBeats.length)) =
      some (some (true, true), 24) := by decide

/-! ### The canonical form at reset -/

theorem reset_fb_wf : Memory.wf State.reset.fb = true ∧ Memory.wf State.reset.rb = true := by decide

/-! ### Hypotheses met: 30_encoding.md, 40_lut.md -/

theorem witness_DecodeEncodeRoundTrip :
    (Instr.sync1Skip 0x58#8).wf tc1 = true ∧ (Instr.sync2Drop 0x33#8).wf tc1 = true ∧
    (Instr.rowrec 255#8 [0x59#8, 0x32#8]).wf tc1 = true ∧ (Instr.fillCommit 0xFF#8).wf tc1 = true := by decide

theorem witness_DecodedBytesAreTheEncoding :
    (∀ n, Channel.record 2 = .record n → n = tc1.N) ∧
    decode (.record 2) [0x59#8, 0x32#8, 7#8, 1#8, 2#8] = .ok (.rowrec 7#8 [1#8, 2#8], []) :=
  ⟨fun _ h => (Channel.record.inj h).symm, by decide⟩

/-- Every clause at a boundary: `cnt` 0, 1, 2, T-2 and T-1, also where T is 4. -/
theorem witness_StreamByteClassification :
    tc1.ok = true ∧ tc1.T = 5 ∧ 0 < tc1.T ∧ 4 < tc1.T ∧ 3 = tc1.T - 2 ∧ 4 = tc1.T - 1 ∧
    tc0.ok = true ∧ tc0.T = 4 ∧ 2 ≤ tc0.T - 2 ∧ 3 = tc0.T - 1 ∧ (0x58#8 : Byte) ≠ 0x59#8 ∧
    (0x33#8 : Byte) ≠ 0x32#8 ∧ (0x33#8 : Byte) ≠ 0x59#8 := by decide

/-- The clamp at its edge: `r = H - 1` is not clamped, `r = H` is; with 256 rows no index is. -/
theorem witness_RowOffsetAssembly :
    tc1.ok = true ∧ rowOffset tc1 2#8 = 4 ∧ rowOffset tc1 3#8 = 0 ∧ tcMax.ok = true ∧
    rowOffset tcMax 255#8 = 255 := by decide

theorem witness_CoordinateTableBijection :
    tc1.ok = true ∧ tc1.P = 6 ∧ xy tc1 0 = (0, 0) ∧ xy tc1 5 = (1, 2) ∧ 1 < tc1.L ∧ 2 < tc1.H := by decide

theorem witness_CellExpandEffect : (filled 1#8 0).cfg.ok = true := by decide

/-! ### Hypotheses met: 41_decoder.md -/

theorem witness_Sync1HitEffect :
    (filled 1#8 0).Ready ∧ (filled 1#8 0).cnt = 0 ∧ (filled 1#8 1).Ready ∧ (filled 1#8 1).cnt = 1 := by decide

theorem witness_Sync1SkipEffect :
    (filled 1#8 0).Ready ∧ (filled 1#8 0).cnt = 0 ∧ (0x32#8 : Byte) ≠ 0x59#8 := by decide

theorem witness_Sync2HitEffect : (filled 1#8 1).Ready ∧ (filled 1#8 1).cnt = 1 := by decide

theorem witness_Sync2RestartEffect : (filled 1#8 1).Ready ∧ (filled 1#8 1).cnt = 1 := by decide

theorem witness_Sync2DropEffect :
    (filled 1#8 1).Ready ∧ (filled 1#8 1).cnt = 1 ∧ (0x33#8 : Byte) ≠ 0x32#8 ∧ (0x33#8 : Byte) ≠ 0x59#8 := by decide

/-- Both ends of the range, and `L = 1`, where they are one value. -/
theorem witness_FillStoreEffect :
    ((filled 1#8 2).Ready ∧ 2 ≤ (filled 1#8 2).cnt ∧ (filled 1#8 2).cnt ≤ (filled 1#8 2).cfg.T - 2) ∧
    ((filled 1#8 3).Ready ∧ 2 ≤ (filled 1#8 3).cnt ∧ (filled 1#8 3).cnt = (filled 1#8 3).cfg.T - 2) ∧
    (State.Ready { smallLast with cnt := 2 } ∧ smallLast.cfg.T - 2 = 2 ∧ smallLast.cfg.L = 1) := by decide

/-- An index in range, an index past it, and the smallest block. -/
theorem witness_FillCommitEffect :
    ((filled 2#8 4).Ready ∧ (filled 2#8 4).cnt = (filled 2#8 4).cfg.T - 1 ∧ (rbAt (filled 2#8 4) 2).toNat = 2) ∧
    ((filled 3#8 4).Ready ∧ (filled 3#8 4).cnt = (filled 3#8 4).cfg.T - 1 ∧
      (filled 3#8 4).cfg.H ≤ (rbAt (filled 3#8 4) 2).toNat) ∧
    (smallLast.Ready ∧ smallLast.cnt = smallLast.cfg.T - 1) := by decide

/-- The clauses on `j`: the last byte of the row, and one before it. -/
theorem witness_FillCommitFrame :
    (filled 2#8 4).Ready ∧ (filled 2#8 4).cnt = (filled 2#8 4).cfg.T - 1 ∧
    1 = (filled 2#8 4).cfg.N - 1 ∧ 0 < (filled 2#8 4).cfg.N ∧
    3 < rowOffset (filled 2#8 4).cfg (rbAt (filled 2#8 4) 2) ∧
    rowOffset (filled 2#8 4).cfg (rbAt (filled 2#8 4) 2) + (filled 2#8 4).cfg.N ≤ 6 := by decide

theorem witness_ClampProperty :
    (filled 3#8 4).Ready ∧ (filled 3#8 4).cnt = (filled 3#8 4).cfg.T - 1 ∧
    (filled 3#8 4).cfg.H ≤ (rbAt (filled 3#8 4) 2).toNat ∧ (filled 3#8 4).cfg.P ≤ 6 := by decide

theorem witness_SevenCasesAreTheByteFunction :
    (filled 1#8 0).Ready ∧ (filled 1#8 1).Ready ∧ (filled 1#8 2).Ready ∧ (filled 1#8 4).Ready := by decide

theorem witness_FillCountTransitions :
    ((filled 1#8 0).Ready ∧ (filled 1#8 0).cnt = 0) ∧ ((filled 1#8 1).Ready ∧ (filled 1#8 1).cnt = 1) ∧
    ((filled 1#8 2).Ready ∧ (filled 1#8 2).cnt = 2 ∧ 2 ≤ (filled 1#8 2).cfg.T - 2) ∧
    ((filled 1#8 3).Ready ∧ (filled 1#8 3).cnt = (filled 1#8 3).cfg.T - 2) ∧
    ((filled 1#8 4).Ready ∧ (filled 1#8 4).cnt = (filled 1#8 4).cfg.T - 1 ∧
      (filled 1#8 4).cnt < (filled 1#8 4).cfg.T) := by decide

/-- An index in range and one past it, from `cnt = 0` and from `cnt = 1`, the payload itself two sync bytes. -/
theorem witness_RecordTheorem :
    ((filled 1#8 0).Ready ∧ (filled 1#8 0).cnt ≤ 1 ∧ [0x59#8, 0x32#8].length = (filled 1#8 0).cfg.N ∧
      (2#8 : Byte).toNat < (filled 1#8 0).cfg.H ∧ 0 < (filled 1#8 0).cfg.T ∧ 4 = (filled 1#8 0).cfg.T - 1) ∧
    ((filled 1#8 1).Ready ∧ (filled 1#8 1).cnt ≤ 1 ∧ ¬ (3#8 : Byte).toNat < (filled 1#8 1).cfg.H) := by decide

theorem witness_RecordIsItsBytes :
    (filled 1#8 1).Ready ∧ (filled 1#8 1).cnt ≤ 1 ∧ [1#8, 2#8].length = (filled 1#8 1).cfg.N := by decide

theorem witness_DoubledSyncByte :
    (filled 1#8 0).Ready ∧ (filled 1#8 0).cnt = 0 ∧ [0x11#8, 0x22#8].length = (filled 1#8 0).cfg.N := by decide

/-- The longest wait, `cnt = 2`, and the shortest. -/
theorem witness_Resynchronisation :
    ((filled 1#8 2).Ready ∧ (filled 1#8 2).cnt < (filled 1#8 2).cfg.T ∧
      [1#8, 2#8, 3#8].length = (filled 1#8 2).cfg.T - 2) ∧
    ((filled 1#8 0).Ready ∧ (filled 1#8 0).cnt < (filled 1#8 0).cfg.T) := by decide

/-- Two states that differ in the framebuffer, the counter, the flags, the count of resets and the lists that hold the
record buffer, and whose slots read alike; with a commit, and with none. -/
theorem witness_DecodingIgnoresTheFramebuffer :
    let full : Memory := [(0, 0x59#8), (1, 0x32#8), (2, 1#8), (3, 0xAA#8), (4, 7#8)]
    let s : State := { filled 1#8 4 with rb := full }
    let s' : State := { s with rb := full ++ [(9, 1#8)], fb := [(0, 7#8)], init := true, alt := 2, resets := 3 }
    s.Ready ∧ s'.Ready ∧ s.cfg = s'.cfg ∧ s.cnt = s'.cnt ∧ (∀ k, k < s.cfg.T → rbAt s k = rbAt s' k) ∧
      s.rb ≠ s'.rb ∧ s.resets ≠ s'.resets ∧ (filled 1#8 2).Ready := by decide

/-! ### Hypotheses met: 42_renderer.md, 43_snapshot_port.md -/

theorem witness_RedrawEffect : (imaged [1#8, 2#8, 3#8, 4#8, 5#8, 6#8]).LockFree := by decide

/-- The first and the last pixel of the plane. -/
theorem witness_PlaneClosedForm :
    (imaged [1#8, 2#8, 3#8, 4#8, 5#8, 6#8]).LockFree ∧ 0 < 4 * tc1.L ∧ 0 < tc1.H ∧ 7 < 4 * tc1.L ∧
    2 < tc1.H := by decide

theorem witness_PlaneCompleteInOrder : (filled 1#8 0).LockFree := by decide

theorem witness_LitPredicate :
    (filled 1#8 0).LockFree ∧ (filled 1#8 0).alt = 0 ∧ State.LockFree { filled 1#8 0 with alt := 2 } := by decide

theorem witness_DutyCycleLaw :
    (imaged [1#8, 2#8, 3#8, 4#8, 5#8, 6#8]).LockFree ∧ (imaged [1#8, 2#8, 3#8, 4#8, 5#8, 6#8]).alt < 3 ∧
    7 < 4 * tc1.L ∧ 2 < tc1.H := by decide

/-- Two states that differ in the record buffer, the fill count and the flags `dirty` and `stopped`. -/
theorem witness_RedrawOutputDependsOnlyOn :
    let s := imaged [1#8, 2#8, 3#8, 4#8, 5#8, 6#8]
    let s' : State := { s with rb := [(0, 0x59#8)], cnt := 1, dirty := true, stopped := true, resets := 1 }
    s.LockFree ∧ s'.LockFree ∧ s.cfg = s'.cfg ∧ (∀ a, a < s.cfg.P → fbAt s a = fbAt s' a) ∧ s.init = s'.init ∧
      s.alt = s'.alt ∧ s ≠ s' := by decide

theorem witness_AlternationCounterWriters :
    (filled 1#8 0).LockFree ∧ State.LockFree { filled 1#8 0 with alt := 2, init := true } ∧
    (∃ t, exec .redraw (filled 1#8 0) = .next t ∧ t.alt ≠ (filled 1#8 0).alt) ∧
    (∃ t, exec .reset { filled 1#8 0 with alt := 2 } = .next t ∧ t.alt ≠ 2) :=
  ⟨by decide, by decide, ⟨_, rfl, by decide⟩, ⟨_, rfl, by decide⟩⟩

theorem witness_SnapshotEffect :
    State.LockFree { filled 1#8 4 with stopped := true } := by decide

/-- The first and the last byte emitted. -/
theorem witness_SnapshotClosedForm :
    (imaged [1#8, 2#8, 3#8, 4#8, 5#8, 6#8]).LockFree ∧ 0 < tc1.P ∧ 5 < tc1.P := by decide

/-! ### Hypotheses met: 44_host_control.md -/

theorem witness_ResetEffect : State.cfg { filled 1#8 4 with own := .ren } = tc1 ∧ tc1.ok = true := by decide

theorem witness_EveryByteSetsDirty : (filled 1#8 0).Ready ∧ (filled 1#8 0).dirty = false := by decide

/-- Each clause: enabled; not dirty; stopped; a byte on offer. -/
theorem witness_RefreshRequest :
    (let s : State := { filled 1#8 0 with dirty := true };
      s.cfg.ok = true ∧ s.dirty = true ∧ s.stopped = false ∧ s.rx = []) ∧
    (let s := filled 1#8 0; s.cfg.ok = true ∧ s.dirty = false) ∧
    (let s : State := { filled 1#8 0 with dirty := true, stopped := true };
      s.cfg.ok = true ∧ s.stopped = true) ∧
    (let s : State := { filled 1#8 0 with dirty := true, rx := [0#8] };
      s.cfg.ok = true ∧ s.rx ≠ []) := by decide

theorem witness_StopEffect : (filled 1#8 2).cfg.ok = true := by decide

/-- Stopped in the middle of a record, a byte on offer, and each of the two grants. -/
theorem witness_StoppedFreezesTheDecoder :
    (let s : State := { filled 1#8 4 with stopped := true, rx := [0#8], sched := [.grantDec] };
      s.cfg.ok = true ∧ s.stopped = true ∧ Instr.fillCommit 0#8 ≠ .reset ∧ s.sched = .grantDec :: []) ∧
    (let s : State := { filled 1#8 1 with stopped := true, sched := [.grantRecord] };
      s.cfg.ok = true ∧ s.stopped = true ∧ s.sched = .grantRecord :: []) := by decide

theorem witness_UpstreamBytesHaveNoEffect :
    (filled 1#8 2).cfg.ok = true ∧ Instr.txStart ∈ [Instr.txPlus, .txM, .txGt, .txLt, .txExit, .txStart] := by decide

/-! ### Hypotheses met: 10_state.md, 20_memory.md, 60_exceptions.md -/

/-- An operation of each group answers a next state. -/
theorem witness_AccessRights :
    (∃ t, exec (.fillCommit 0#8) (filled 1#8 4) = .next t ∧ channelOf (.fillCommit 0#8) = .stream .lastByte) ∧
    (∃ t, exec (.rowrec 0#8 [1#8, 2#8]) (filled 1#8 0) = .next t ∧ channelOf (.rowrec 0#8 [1#8, 2#8]) = .record 2) ∧
    (∃ t, exec .redraw (filled 1#8 0) = .next t) ∧ (∃ t, exec .refreshReq (filled 1#8 0) = .next t) ∧
    (∃ t, exec .stop (filled 1#8 0) = .next t) ∧
    (∃ t, exec .txStart (filled 1#8 0) = .next t ∧ channelOf .txStart = .upstream) :=
  ⟨⟨_, rfl, rfl⟩, ⟨_, rfl, rfl⟩, ⟨_, rfl⟩, ⟨_, rfl⟩, ⟨_, rfl⟩, ⟨_, rfl, rfl⟩⟩

theorem witness_InitialisedFlagWriters :
    ((filled 1#8 4).Ready ∧ (filled 1#8 4).cnt = (filled 1#8 4).cfg.T - 1) ∧
    (∃ t, exec (.fillCommit 0#8) (filled 1#8 4) = .next t ∧ t.init ≠ (filled 1#8 4).init) ∧
    (∃ t, exec .reset { filled 1#8 0 with init := true } = .next t ∧ t.init ≠ true) :=
  ⟨by decide, ⟨_, rfl, by decide⟩, ⟨_, rfl, by decide⟩⟩

theorem witness_FramebufferWriters :
    ∃ t, exec .redraw (filled 1#8 0) = .next t ∧ Instr.redraw ≠ .reset ∧ (∀ b, Instr.redraw ≠ .fillCommit b) ∧
      ∀ r payload, Instr.redraw ≠ .rowrec r payload :=
  ⟨_, rfl, by decide, by simp, by simp⟩

theorem witness_HeldLockMakesAgentsWait :
    (let s : State := { filled 1#8 4 with own := .snap }; s.cfg.ok = true ∧ s.own ≠ .free) ∧
    channelOf (.fillCommit 0#8) = .stream .lastByte ∧ channelOf .pxT85 = .tone ∧
    channelOf (.rowrec 0#8 [1#8, 2#8]) = .record 2 := by decide

theorem witness_EveryStepAnswersNext : (filled 1#8 4).cfg.ok = true ∧ tcMax.ok = true := by decide

/-- Each bound broken alone: no cells, no rows, 257 rows, `N` other than `L`. -/
theorem witness_BadConfigurationRefused :
    ∀ c ∈ [Config.mk 0 3 0, Config.mk 2 0 2, Config.mk 2 257 2, Config.mk 2 3 3],
      ¬ (1 ≤ c.L ∧ 1 ≤ c.H ∧ c.H ≤ 256 ∧ c.N = c.L) := by decide

theorem witness_StepRunsTheDecodedOperation :
    (let s : State := { filled 1#8 1 with rx := [0x32#8, 1#8], sched := [.grantDec] };
      s.stopped = false ∧ s.own = .free ∧ s.sched = .grantDec :: [] ∧
        decode (.stream (phase s.cfg s.cnt)) s.rx = .ok (.sync2Hit, [1#8])) ∧
    (let s : State := { filled 1#8 1 with rx := [0x59#8, 0x32#8, 1#8, 2#8, 3#8], sched := [.grantRecord] };
      s.stopped = false ∧ s.own = .free ∧ s.cnt ≤ 1 ∧ s.sched = .grantRecord :: [] ∧
        decode (.record s.cfg.N) s.rx = .ok (.rowrec 1#8 [2#8, 3#8], [])) ∧
    (let s : State := { filled 1#8 1 with redrawReq := true, sched := [.grantRen] };
      s.redrawReq = true ∧ s.own = .free ∧ s.sched = .grantRen :: []) ∧
    (let s : State := { filled 1#8 1 with snapReq := true, sched := [.grantSnap] };
      s.snapReq = true ∧ s.own = .free ∧ s.sched = .grantSnap :: []) ∧
    decode .upstream [0x53#8, 0x32#8] = .ok (.txStart, []) ∧ decode .tone [3#8] = .ok (.pxT255, []) := by decide

theorem witness_InterfaceEvents :
    (let s : State := { filled 1#8 1 with rx := [1#8, 2#8], sched := [.corrupt 9#8] };
      s.cfg.ok = true ∧ s.sched = .corrupt 9#8 :: [] ∧ s.rx = 1#8 :: [2#8]) ∧
    (let s : State := { filled 1#8 1 with sched := [.corrupt 9#8] };
      s.cfg.ok = true ∧ s.sched = .corrupt 9#8 :: [] ∧ s.rx = []) ∧
    (let s : State := { filled 1#8 1 with redrawReq := true, sched := [.redrawTick] };
      s.cfg.ok = true ∧ s.sched = .redrawTick :: []) ∧
    (let s : State := { filled 1#8 1 with sched := [.grantRen] };
      s.cfg.ok = true ∧ s.redrawReq = false ∧ s.snapReq = false ∧ s.rx = [] ∧ s.sched = .grantRen :: []) ∧
    (let s : State := { filled 1#8 1 with own := .ren, sched := [.grantDec] };
      s.cfg.ok = true ∧ s.own ≠ .free ∧ s.sched = .grantDec :: []) ∧
    ((filled 1#8 1).sched = [] ∧ (filled 1#8 1).redrawReq = false ∧ (filled 1#8 1).snapReq = false ∧
      (filled 1#8 1).rx = []) ∧
    3 < (4#8 : Byte).toNat := by decide

/-- A record past `cnt = 1`; bytes on offer that do not begin with a record, and too few of them; a byte sent upstream
that is no sequence. -/
theorem witness_InterfaceEvents_grantRecord :
    2 ≤ (filled 1#8 2).cnt ∧ (∀ i rest, decode (.record 2) [0x59#8, 0x59#8, 1#8, 2#8, 3#8] ≠ .ok (i, rest)) ∧
    (∀ i rest, decode (.record 2) [0x59#8, 0x32#8, 1#8, 2#8] ≠ .ok (i, rest)) ∧
    (∀ i, decode .upstream [0x41#8] ≠ .ok (i, [])) :=
  ⟨by decide,
   fun i rest h => by
     have e : decode (.record 2) [0x59#8, 0x59#8, 1#8, 2#8, 3#8] = .error .notARecord := rfl
     simp [e] at h,
   fun i rest h => by
     have e : decode (.record 2) [0x59#8, 0x32#8, 1#8, 2#8] = .error .truncated := rfl
     simp [e] at h,
   fun i h => by
     have e : decode .upstream [0x41#8] = .error .notUpstream := rfl
     simp [e] at h⟩

theorem witness_ResetMeetsTheInvariant : tc1.ok = true ∧ tc0.ok = true ∧ tcMax.ok = true := by decide

/-- A state in the middle of a record, one row of the framebuffer written, whose next step commits another. -/
def midRecord : State :=
  { filled 1#8 4 with
    fb := [(4, 1#8), (5, 2#8)]
    init := true
    dirty := true
    alt := 2
    rx := [9#8]
    sched := [.grantDec] }

theorem witness_EveryStepKeepsTheInvariant :
    midRecord.Inv ∧ (nextOf (step midRecord)).map (·.fb) = some [(2, 0xAA#8), (3, 9#8), (4, 1#8), (5, 2#8)] :=
  ⟨{ cfgOk := by decide, cntInRange := by decide, altInRange := by decide, lockFree := by decide,
     fbWf := by decide, rbWf := by decide, fbInRange := by decide, rbInRange := by decide, rowsWhole := by decide,
     initIffCommitted := by decide, syncAStored := by decide, syncBStored := by decide, slotsStored := by decide },
   by decide⟩

theorem witness_RowsAreWrittenWhole :
    midRecord.sched.head? ≠ some .reset ∧ (nextOf (step midRecord)).map (·.cnt) = some 0 := by decide

theorem witness_RowScriptLineRunsTheRecord :
    let s : State := { filled 1#8 0 with sched := (ScriptLine.row 2#8 [1#8, 2#8]).events ++ [.drain] }
    s.Ready ∧ s.cnt ≤ 1 ∧ s.rx = [] ∧ [1#8, 2#8].length = s.cfg.N ∧
      s.sched = (ScriptLine.row 2#8 [1#8, 2#8]).events ++ [.drain] := by decide

theorem witness_ReadersAndDrainsDoNotDisturbTheDecoder :
    State.Ready { filled 1#8 3 with dirty := true } := by decide

/-- A fill count that is another case's, a byte that is another case's, a record met too late, a record too short. -/
theorem witness_OperationsOutOfPlaceDoNothing :
    (filled 1#8 2).cfg.ok = true ∧ channelOf .sync1Hit = .stream .awaitingSync1 ∧
    phase (filled 1#8 2).cfg (filled 1#8 2).cnt ≠ .awaitingSync1 ∧ (Instr.sync1Skip 0x59#8).wf tc1 = false ∧
    2 ≤ (filled 1#8 2).cnt ∧ [1#8].length ≠ (filled 1#8 2).cfg.N := by decide

theorem witness_ServedRequestsEnd :
    State.LockFree { filled 1#8 3 with redrawReq := true, snapReq := true } := by decide

/-- Each agent alone, and all three. -/
theorem witness_IdleArbiterGrantsAWaitingAgent :
    (let s : State := { filled 1#8 3 with redrawReq := true }; s.LockFree ∧ s.sched = [] ∧ s.redrawReq = true) ∧
    (let s : State := { filled 1#8 3 with snapReq := true }; s.LockFree ∧ s.sched = [] ∧ s.snapReq = true) ∧
    (let s : State := { filled 1#8 3 with rx := [1#8] };
      s.LockFree ∧ s.sched = [] ∧ s.stopped = false ∧ s.rx ≠ []) ∧
    (let s : State := { filled 1#8 3 with redrawReq := true, snapReq := true, rx := [1#8] };
      s.LockFree ∧ s.sched = [] ∧ s.waiting = [.grantDec, .grantRen, .grantSnap]) := by decide

theorem witness_EveryRequestIsEventuallyServed :
    let s : State := { filled 1#8 3 with redrawReq := true, rx := [1#8], sched := [.snapTrigger, .offer 2#8] }
    s.LockFree ∧ s.redrawReq = true ∧ s.rx ≠ [] := by decide

/-- A tick served, a trigger served, a byte accepted. -/
theorem witness_RequestsEndOnlyWhenServed :
    (nextOf (step { filled 1#8 0 with redrawReq := true, sched := [.grantRen] })).map (·.redrawReq) = some false ∧
    (nextOf (step { filled 1#8 0 with snapReq := true, sched := [.grantSnap] })).map (·.snapReq) = some false ∧
    (nextOf (step { filled 1#8 0 with rx := [0#8], sched := [.grantDec] })).map (·.rx.length) = some 0 := by decide

end Sys2Proof.Tests
end

section
/-! PROOFS. What the machine does under a configuration it must refuse (00_scope.md R5, R6). -/

namespace Sys2Proof.Machine

/-! ### The configuration on the way to an operation -/

/-- The parameters are fixed: taking the next event does not touch them. -/
theorem nextEvent_cfg (s s1 : State) (e : Event) (h : s.nextEvent = some (e, s1)) : s1.cfg = s.cfg := by
  rw [nextEvent_frame s s1 e h]

/-- The parameters are fixed: fetching an operation does not touch them. -/
theorem fetchEvent_cfg (e : Event) (s s' : State) (i : Instr) (h : fetchEvent e s = some (i, s')) :
    s'.cfg = s.cfg := by
  rw [fetchEvent_frame e s s' i h]

/-! ### Refusal -/

/-- The configurations not accepted, in the terms of R5 and R6. -/
theorem Config_ok_eq_false_iff (c : Config) :
    c.ok = false ↔ ¬ (1 ≤ c.L ∧ 1 ≤ c.H ∧ c.H ≤ 256 ∧ c.N = c.L) := by
  rw [← Config_ok_iff, Bool.not_eq_true]

/-- Under a configuration not accepted every operation is refused. -/
theorem exec_bad (i : Instr) (s : State) (h : s.cfg.ok = false) : exec i s = .refused .badConfig := by
  obtain ⟨f, hf⟩ := exec_is_operate i
  rw [hf, operate_bad s f h]

/-- Under a configuration not accepted every step is refused, whatever it was to be: what runs in the end is in the
common frame, and nothing before it changes the configuration. -/
theorem step_bad (s : State) (h : s.cfg.ok = false) : step s = .refused .badConfig := by
  obtain ⟨-, -, hstep⟩ | ⟨e, s1, hnext, hev⟩ := step_cases s
  · rw [hstep, operate_bad s _ h]
  · have h1 : s1.cfg.ok = false := by rw [nextEvent_cfg s s1 e hnext, h]
    obtain ⟨i, s2, hfetch, hstep⟩ | ⟨-, hstep⟩ := hev
    · have h2 : s2.cfg.ok = false := by rw [fetchEvent_cfg e s1 s2 i hfetch, h1]
      rw [hstep, exec_bad i s2 h2]
    · rw [hstep, operate_bad s1 _ h1]

/-- Settles O46: a step ends in `operate` and an operation is one, with the configuration it started from. -/
theorem badConfigurationRefused : Obligations.BadConfigurationRefused := by
  intro s h
  have hbad : s.cfg.ok = false := (Config_ok_eq_false_iff s.cfg).mpr h
  exact ⟨step_bad s hbad, fun i => exec_bad i s hbad⟩

end Sys2Proof.Machine
end

section
/-! PROOFS. The state of the block (10_state.md): BYTE as one function behind its seven cases, what each agent's operations
can write, the waiting for the lock, the invariant of R39, and the events that bring no operation. -/

namespace Sys2Proof.Machine

/-! ### BYTE: the one function behind its seven cases -/

section
variable (b : Byte) (s : State)

theorem byteBody_sync1Hit (h : s.cnt = 0) : byteBody syncA s = (s.storeSlot 0 syncA).setCnt 1 := by
  simp [byteBody, h]

theorem byteBody_sync1Skip (h : s.cnt = 0) (hA : b ≠ syncA) : byteBody b s = s := by
  simp [byteBody, h, hA]

theorem byteBody_sync2Hit (h : s.cnt = 1) : byteBody syncB s = (s.storeSlot 1 syncB).setCnt 2 := by
  simp [byteBody, h]

theorem byteBody_sync2Restart (h : s.cnt = 1) :
    byteBody syncA s = ((s.setCnt 0).storeSlot 0 syncA).setCnt 1 := by
  simp [byteBody, h, show syncA ≠ syncB by decide]

theorem byteBody_sync2Drop (h : s.cnt = 1) (hA : b ≠ syncA) (hB : b ≠ syncB) : byteBody b s = s.setCnt 0 := by
  simp [byteBody, h, hA, hB]

theorem byteBody_fillStore (h : 2 ≤ s.cnt) (hT : s.cnt + 1 ≠ s.cfg.T) :
    byteBody b s = (s.storeSlot s.cnt b).setCnt (s.cnt + 1) := by
  simp [byteBody, hT, show s.cnt ≠ 0 by omega, show s.cnt ≠ 1 by omega]

theorem byteBody_fillCommit (h : 2 ≤ s.cnt) (hT : s.cnt + 1 = s.cfg.T) :
    byteBody b s = (s.storeSlot s.cnt b).commitRow := by
  rw [byteBody, if_neg (by omega), if_neg (by omega)]
  exact if_pos hT

/-- What BYTE can do (R120): start a record, go past the second sync byte, fall back, store, commit. -/
theorem byteBody_cases :
    (s.cnt ≤ 1 ∧ b = syncA ∧ byteBody b s = (s.storeSlot 0 syncA).setCnt 1) ∨
    (s.cnt = 1 ∧ b = syncB ∧ byteBody b s = (s.storeSlot 1 syncB).setCnt 2) ∨
    (s.cnt ≤ 1 ∧ b ≠ syncA ∧ (s.cnt = 1 → b ≠ syncB) ∧ byteBody b s = s.setCnt 0) ∨
    (2 ≤ s.cnt ∧ s.cnt + 1 ≠ s.cfg.T ∧ byteBody b s = (s.storeSlot s.cnt b).setCnt (s.cnt + 1)) ∨
    (2 ≤ s.cnt ∧ s.cnt + 1 = s.cfg.T ∧ byteBody b s = (s.storeSlot s.cnt b).commitRow) := by
  rcases (by omega : s.cnt = 0 ∨ s.cnt = 1 ∨ 2 ≤ s.cnt) with h0 | h1 | h2
  · by_cases hA : b = syncA
    · exact .inl ⟨by omega, hA, hA ▸ byteBody_sync1Hit s h0⟩
    · refine .inr (.inr (.inl ⟨by omega, hA, by omega, ?_⟩))
      rw [byteBody_sync1Skip b s h0 hA, State.setCnt, ← h0]
  · by_cases hA : b = syncA
    · exact .inl ⟨by omega, hA, hA ▸ byteBody_sync2Restart s h1⟩
    · by_cases hB : b = syncB
      · exact .inr (.inl ⟨h1, hB, hB ▸ byteBody_sync2Hit s h1⟩)
      · exact .inr (.inr (.inl ⟨by omega, hA, fun _ => hB, byteBody_sync2Drop b s h1 hA hB⟩))
  · by_cases hT : s.cnt + 1 = s.cfg.T
    · exact .inr (.inr (.inr (.inr ⟨h2, hT, byteBody_fillCommit b s h2 hT⟩)))
    · exact .inr (.inr (.inr (.inl ⟨h2, hT, byteBody_fillStore b s h2 hT⟩)))

/-- A commit is what sets `init`; every other BYTE leaves it (R23). -/
theorem byteBody_init : (byteBody b s).init = s.init ∨
    (2 ≤ s.cnt ∧ s.cnt + 1 = s.cfg.T ∧ (byteBody b s).init = true) := by
  obtain ⟨-, -, h⟩ | ⟨-, -, h⟩ | ⟨-, -, -, h⟩ | ⟨-, -, h⟩ | ⟨h2, hT, h⟩ := byteBody_cases b s
  · exact .inl (by rw [h]; rfl)
  · exact .inl (by rw [h]; rfl)
  · exact .inl (by rw [h]; rfl)
  · exact .inl (by rw [h]; rfl)
  · exact .inr ⟨h2, hT, by rw [h]; rfl⟩

end

/-- A case of BYTE whose body is R120's function there is the atomic BYTE. -/
theorem byteCase_eq_byteStep (s : State) (b : Byte) {applies : Bool} {body : State → State} (ha : applies = true)
    (h : byteBody b (s.setOwn .dec) = body (s.setOwn .dec)) : byteCase s applies body = byteStep b s := by
  simp [byteStep, byteCase, underLock, ha, h]

theorem byteCase_not_applies (s : State) {applies : Bool} (body : State → State) (ha : applies = false) :
    byteCase s applies body = s := by simp [byteCase, ha]

/-- Two effects that agree on the state with nothing emitted are one operation. -/
theorem operate_congr (s : State) {f g : State → State} (h : f (s.emit []) = g (s.emit [])) :
    operate s f = operate s g := by rw [operate, operate, h]

/-- The operation a byte is (R89) is the atomic BYTE of that byte (R120), enabled or not. -/
theorem exec_streamInstr (s : State) (b : Byte) : exec (streamInstr s b) s = operate s (byteStep b) := by
  unfold streamInstr phase
  split_ifs with h0 h1 hT <;> simp only [decodeStream]
  · split_ifs with hA
    · subst hA
      exact operate_congr s (byteCase_eq_byteStep _ syncA (by simpa) (byteBody_sync1Hit _ h0))
    · exact operate_congr s (byteCase_eq_byteStep _ b (by simp [h0, hA]) (byteBody_sync1Skip b _ h0 hA))
  · split_ifs with hB hA
    · subst hB
      exact operate_congr s (byteCase_eq_byteStep _ syncB (by simpa) (byteBody_sync2Hit _ h1))
    · subst hA
      exact operate_congr s (byteCase_eq_byteStep _ syncA (by simpa) (byteBody_sync2Restart _ h1))
    · exact operate_congr s (byteCase_eq_byteStep _ b (by simp [h1, hA, hB]) (byteBody_sync2Drop b _ h1 hA hB))
  · have h2 : 2 ≤ s.cnt := by omega
    exact operate_congr s (byteCase_eq_byteStep _ b (by simp [h2, hT]) (byteBody_fillCommit b _ h2 hT))
  · have h2 : 2 ≤ s.cnt := by omega
    exact operate_congr s (byteCase_eq_byteStep _ b (by simp [h2, hT]) (byteBody_fillStore b _ h2 hT))

theorem streamInstr_lastByte (s : State) (b : Byte) (h2 : 2 ≤ s.cnt) (hT : s.cnt + 1 = s.cfg.T) :
    streamInstr s b = .fillCommit b := by
  simp [streamInstr, phase, decodeStream, hT, show s.cnt ≠ 0 by omega, show s.cnt ≠ 1 by omega]

/-- An operation of the stream is the one its byte is there, or it is out of its place and does nothing. -/
theorem exec_stream_cases (i : Instr) (p : Phase) (s : State) (hp : channelOf i = .stream p) :
    (∃ b, i = streamInstr s b) ∨ exec i s = operate s fun s => s := by
  cases i <;> simp only [channelOf, reduceCtorEq] at hp
  case sync1Hit =>
    by_cases h : s.cnt = 0
    · exact .inl ⟨syncA, by simp [streamInstr, phase, decodeStream, h]⟩
    · exact .inr (operate_congr s (byteCase_not_applies _ _ (by simpa)))
  case sync1Skip b =>
    by_cases h : s.cnt = 0 ∧ b ≠ syncA
    · exact .inl ⟨b, by simp [streamInstr, phase, decodeStream, h]⟩
    · exact .inr (operate_congr s (byteCase_not_applies _ _ (by simpa using h)))
  case sync2Hit =>
    by_cases h : s.cnt = 1
    · exact .inl ⟨syncB, by simp [streamInstr, phase, decodeStream, h]⟩
    · exact .inr (operate_congr s (byteCase_not_applies _ _ (by simpa)))
  case sync2Restart =>
    by_cases h : s.cnt = 1
    · exact .inl ⟨syncA, by simp [streamInstr, phase, decodeStream, h, show syncA ≠ syncB by decide]⟩
    · exact .inr (operate_congr s (byteCase_not_applies _ _ (by simpa)))
  case sync2Drop b =>
    by_cases h : (s.cnt = 1 ∧ b ≠ syncB) ∧ b ≠ syncA
    · exact .inl ⟨b, by simp [streamInstr, phase, decodeStream, h]⟩
    · exact .inr (operate_congr s (byteCase_not_applies _ _ (by simpa using h)))
  case fillStore b =>
    by_cases h : 2 ≤ s.cnt ∧ s.cnt + 1 ≠ s.cfg.T
    · refine .inl ⟨b, ?_⟩
      simp [streamInstr, phase, decodeStream, h, show s.cnt ≠ 0 by omega, show s.cnt ≠ 1 by omega]
    · have hout : (decide (2 ≤ s.cnt) && s.cnt + 1 != s.cfg.T) = false := by simpa using h
      exact .inr (operate_congr s (byteCase_not_applies _ _ hout))
  case fillCommit b =>
    by_cases h : 2 ≤ s.cnt ∧ s.cnt + 1 = s.cfg.T
    · exact .inl ⟨b, (streamInstr_lastByte s b h.1 h.2).symm⟩
    · have hout : (decide (2 ≤ s.cnt) && s.cnt + 1 == s.cfg.T) = false := by simpa using h
      exact .inr (operate_congr s (byteCase_not_applies _ _ hout))

/-! ### The operations by agent, and what each can write (R40) -/

section
variable (i : Instr) (s t : State)

/-- Every operation is the decoder's, the renderer's or the snapshot agent's, or a wire or an upstream sequence. -/
theorem agent_cases :
    ((∃ p, channelOf i = .stream p) ∨ ∃ n, channelOf i = .record n) ∨ i = .redraw ∨ i = .snapshot ∨
    (channelOf i = .cell ∨ channelOf i = .tone) ∨ i = .reset ∨ i = .refreshReq ∨ i = .stop ∨
    channelOf i = .upstream := by
  cases i <;> simp [channelOf]

theorem eq_rowrec_of_record (n : Nat) (h : channelOf i = .record n) : ∃ r payload, i = .rowrec r payload := by
  cases i <;> simp only [channelOf, reduceCtorEq] at h
  exact ⟨_, _, rfl⟩

theorem eq_cellExpand_of_cell (h : channelOf i = .cell) : ∃ b, i = .cellExpand b := by
  cases i <;> simp only [channelOf, reduceCtorEq] at h
  exact ⟨_, rfl⟩

/-- The four PX rows are one look-up, each of its own code. -/
theorem exec_tone (h : channelOf i = .tone) : ∃ c, ∀ s, exec i s = operate s (pixelOf c) := by
  cases i <;> simp only [channelOf, reduceCtorEq] at h <;> exact ⟨_, fun _ => rfl⟩

theorem exec_upstream (h : channelOf i = .upstream) : exec i s = operate s fun s => s := by
  cases i <;> simp only [channelOf, reduceCtorEq] at h <;> rfl

/-- An atomic BYTE writes `rb`, `cnt`, `fb`, `init` and `dirty` alone. -/
theorem byteStep_frame (b : Byte) : ∃ rb cnt fb init dirty,
    byteStep b s = { s with rb := rb, cnt := cnt, fb := fb, init := init, dirty := dirty } :=
  ⟨_, _, _, _, _, foldl_byteStep_frame [b] s⟩

theorem decoder_frame (hi : (∃ p, channelOf i = .stream p) ∨ ∃ n, channelOf i = .record n)
    (h : exec i s = .next t) : ∃ rb cnt fb init dirty,
      t = { s with rb := rb, cnt := cnt, fb := fb, init := init, dirty := dirty, out := [] } := by
  obtain ⟨p, hp⟩ | ⟨n, hn⟩ := hi
  · obtain ⟨b, rfl⟩ | hout := exec_stream_cases i p s hp
    · rw [exec_streamInstr, operate_next_iff] at h
      obtain ⟨rb, cnt, fb, init, dirty, hb⟩ := byteStep_frame (s.emit []) b
      exact ⟨rb, cnt, fb, init, dirty, h.2.trans hb⟩
    · rw [hout, operate_next_iff] at h
      exact ⟨_, _, _, _, _, h.2⟩
  · obtain ⟨r, payload, rfl⟩ := eq_rowrec_of_record i n hn
    exact ⟨_, _, _, _, _, rowrec_frame r payload s t h⟩

theorem redraw_frame (h : exec .redraw s = .next t) :
    ∃ alt latch out, (alt = s.alt ∨ alt = altNext s.alt) ∧
      t = { s with alt := alt, redrawReq := latch, out := out } := by
  simp only [exec, execRedraw, operate_next_iff] at h
  by_cases ho : s.own = .free
  · rw [underLock_free .ren (s.emit []) _ ho, State.setOwn, ← ho] at h
    exact ⟨_, _, _, .inr rfl, h.2⟩
  · rw [underLock_held .ren (s.emit []) _ ho] at h
    exact ⟨_, _, _, .inl rfl, h.2⟩

theorem snapshot_frame (h : exec .snapshot s = .next t) :
    ∃ latch out, t = { s with snapReq := latch, out := out } := by
  simp only [exec, execSnapshot, operate_next_iff] at h
  by_cases ho : s.own = .free
  · rw [underLock_free .snap (s.emit []) _ ho, State.setOwn, ← ho] at h
    exact ⟨_, _, h.2⟩
  · rw [underLock_held .snap (s.emit []) _ ho] at h
    exact ⟨_, _, h.2⟩

theorem lookup_frame (hi : channelOf i = .cell ∨ channelOf i = .tone) (h : exec i s = .next t) :
    ∃ out, t = { s with out := out } := by
  obtain hc | ht := hi
  · obtain ⟨b, rfl⟩ := eq_cellExpand_of_cell i hc
    simp only [exec, execCellExpand, operate_next_iff] at h
    exact ⟨_, h.2⟩
  · obtain ⟨c, hc⟩ := exec_tone i ht
    rw [hc, operate_next_iff, pixelOf] at h
    by_cases ho : s.own = .free
    · rw [underLock_free .ren (s.emit []) _ ho, State.setOwn, ← ho] at h
      exact ⟨_, h.2⟩
    · rw [underLock_held .ren (s.emit []) _ ho] at h
      exact ⟨_, h.2⟩

theorem refreshReq_frame (h : exec .refreshReq s = .next t) :
    ∃ dirty out, t = { s with dirty := dirty, out := out } := by
  simp only [exec, execRefreshReq, operate_next_iff] at h
  split_ifs at h
  · exact ⟨_, _, h.2⟩
  · exact ⟨_, _, h.2⟩

theorem exec_reset : exec .reset s = operate s fun s => { State.resetWith s.cfg with
    rx := s.rx, sched := s.sched, resets := s.resets + 1, grants := s.grants } := rfl

theorem exec_stop : exec .stop s = operate s fun s => { s with stopped := true } := rfl

end

/-- What an operation that answers a next state has written, by agent (R40). -/
inductive AgentWrites (i : Instr) (s : State) : State → Prop where
  /-- BYTE and ROWREC. -/
  | decoder (hi : (∃ p, channelOf i = .stream p) ∨ ∃ n, channelOf i = .record n) (rb : Memory) (cnt : Nat)
      (fb : Memory) (init dirty : Bool) :
      AgentWrites i s { s with rb := rb, cnt := cnt, fb := fb, init := init, dirty := dirty, out := [] }
  /-- REDRAW. -/
  | redraw (hi : i = .redraw) (alt : Nat) (latch : Bool) (out : List Output)
      (halt : alt = s.alt ∨ alt = altNext s.alt) :
      AgentWrites i s { s with alt := alt, redrawReq := latch, out := out }
  /-- SNAPSHOT. -/
  | snapshot (hi : i = .snapshot) (latch : Bool) (out : List Output) :
      AgentWrites i s { s with snapReq := latch, out := out }
  /-- CELL_EXPAND and the PX rows. -/
  | lookup (hi : channelOf i = .cell ∨ channelOf i = .tone) (out : List Output) :
      AgentWrites i s { s with out := out }
  /-- RESET. -/
  | reset (hi : i = .reset) :
      AgentWrites i s { State.resetWith s.cfg with
        rx := s.rx, sched := s.sched, resets := s.resets + 1, grants := s.grants }
  /-- REFRESH_REQ. -/
  | refreshReq (hi : i = .refreshReq) (dirty : Bool) (out : List Output) :
      AgentWrites i s { s with dirty := dirty, out := out }
  /-- STOP. -/
  | stop (hi : i = .stop) : AgentWrites i s { s with stopped := true, out := [] }
  /-- The upstream sequences. -/
  | upstream (hi : channelOf i = .upstream) : AgentWrites i s { s with out := [] }

/-- Every operation is one of the groups of R40. -/
theorem exec_agentWrites (i : Instr) (s t : State) (h : exec i s = .next t) : AgentWrites i s t := by
  obtain hi | rfl | rfl | hi | rfl | rfl | rfl | hi := agent_cases i
  · obtain ⟨rb, cnt, fb, init, dirty, rfl⟩ := decoder_frame i s t hi h
    exact .decoder hi rb cnt fb init dirty
  · obtain ⟨alt, latch, out, halt, rfl⟩ := redraw_frame s t h
    exact .redraw rfl alt latch out halt
  · obtain ⟨latch, out, rfl⟩ := snapshot_frame s t h
    exact .snapshot rfl latch out
  · obtain ⟨out, rfl⟩ := lookup_frame i s t hi h
    exact .lookup hi out
  · rw [exec_reset, operate_next_iff] at h
    exact h.2 ▸ .reset rfl
  · obtain ⟨dirty, out, rfl⟩ := refreshReq_frame s t h
    exact .refreshReq rfl dirty out
  · rw [exec_stop, operate_next_iff] at h
    exact h.2 ▸ .stop rfl
  · rw [exec_upstream i s hi, operate_next_iff] at h
    exact h.2 ▸ .upstream hi

/-- Settles O41: each operation writes what its agent may, by the frame of its agent. -/
theorem accessRights : Obligations.AccessRights := by
  intro i s t h
  refine ⟨?_, ?_, ?_, ?_, ?_⟩
  · cases exec_agentWrites i s t h with
    | reset hi => exact ⟨rfl, rfl, rfl, rfl, fun hne => absurd hi hne⟩
    | _ => exact ⟨rfl, rfl, rfl, rfl, fun _ => rfl⟩
  · intro hi
    obtain hd | rfl : ((∃ p, channelOf i = .stream p) ∨ ∃ n, channelOf i = .record n) ∨ i = .refreshReq :=
      or_assoc.mpr hi
    · obtain ⟨_, _, _, _, _, rfl⟩ := decoder_frame i s t hd h
      simp
    · obtain ⟨_, _, rfl⟩ := refreshReq_frame s t h
      simp
  · rintro rfl
    obtain ⟨_, _, rfl⟩ := refreshReq_frame s t h
    simp
  · rintro (rfl | rfl | hl)
    · obtain ⟨_, _, _, -, rfl⟩ := redraw_frame s t h
      simp
    · obtain ⟨_, _, rfl⟩ := snapshot_frame s t h
      simp
    · obtain ⟨_, rfl⟩ := lookup_frame i s t hl h
      simp
  · rintro (rfl | hu)
    · rw [exec_stop, operate_next_iff] at h
      simp [h.2]
    · rw [exec_upstream i s hu, operate_next_iff] at h
      simp [h.2]

/-! ### The initialised flag (R23) -/

/-- BYTE never clears `init`. -/
theorem byteStep_init (b : Byte) (s : State) : (byteStep b s).init = s.init ∨
    (2 ≤ s.cnt ∧ s.cnt + 1 = s.cfg.T ∧ (byteStep b s).init = true) := by
  obtain ⟨-, -, h⟩ | h := byteStep_cases b s
  · rw [h]; exact byteBody_init b s
  · exact .inl (by rw [h])

theorem foldl_byteStep_init (bs : List Byte) (s : State) :
    (bs.foldl (fun s b => byteStep b s) s).init = s.init ∨
    (bs.foldl (fun s b => byteStep b s) s).init = true := by
  induction bs generalizing s with
  | nil => exact .inl rfl
  | cons b rest ih =>
    obtain hr | hr := ih (byteStep b s)
    · obtain hb | ⟨-, -, hb⟩ := byteStep_init b s
      · exact .inl (hr.trans hb)
      · exact .inr (hr.trans hb)
    · exact .inr hr

/-- A byte that changes `init` is the last of a record. -/
theorem streamInstr_init (s t : State) (b : Byte) (h : exec (streamInstr s b) s = .next t) (hne : t.init ≠ s.init) :
    t.init = true ∧ streamInstr s b = .fillCommit b := by
  rw [exec_streamInstr, operate_next_iff] at h
  obtain ⟨-, rfl⟩ := h
  obtain h | ⟨h2, hT, h⟩ := byteStep_init b (s.emit [])
  · exact absurd h hne
  · exact ⟨h, streamInstr_lastByte s b h2 hT⟩

theorem rowrec_init (s t : State) (r : Byte) (payload : List Byte) (h : exec (.rowrec r payload) s = .next t)
    (hne : t.init ≠ s.init) : t.init = true := by
  obtain ⟨-, rfl⟩ := (operate_next_iff ..).mp h
  split_ifs at hne ⊢
  · exact (foldl_byteStep_init _ _).resolve_left hne
  · exact absurd rfl hne

/-- Only a commit is an operation of the decoder that changes `init`, and it sets it. -/
theorem decoder_init (i : Instr) (s t : State)
    (hi : (∃ p, channelOf i = .stream p) ∨ ∃ n, channelOf i = .record n) (h : exec i s = .next t)
    (hne : t.init ≠ s.init) :
    t.init = true ∧ ((∃ b, i = .fillCommit b) ∨ ∃ r payload, i = .rowrec r payload) := by
  obtain ⟨p, hp⟩ | ⟨n, hn⟩ := hi
  · obtain ⟨b, rfl⟩ | hout := exec_stream_cases i p s hp
    · obtain ⟨hinit, hcommit⟩ := streamInstr_init s t b h hne
      exact ⟨hinit, .inl ⟨b, hcommit⟩⟩
    · rw [hout, operate_next_iff] at h
      exact absurd (congrArg State.init h.2) hne
  · obtain ⟨r, payload, rfl⟩ := eq_rowrec_of_record i n hn
    exact ⟨rowrec_init s t r payload h hne, .inr ⟨r, payload, rfl⟩⟩

/-- Settles O42: of the operations, a commit sets `init`, RESET clears it, and no other is a writer of it. -/
theorem initialisedFlagWriters : Obligations.InitialisedFlagWriters := by
  refine ⟨?_, ?_, ?_⟩
  · rintro s b ⟨hok, ho, hs⟩ hcnt
    obtain ⟨hT, hL, -⟩ := T_of_ok s.cfg hok
    have h2 : 2 ≤ s.cnt := by omega
    have hlast : s.cnt + 1 = s.cfg.T := by omega
    refine ⟨byteStep b (s.emit []), ?_, ?_⟩
    · rw [← streamInstr_lastByte s b h2 hlast, exec_streamInstr, operate_ok s _ hok]
    · rw [byteStep_ready b (s.emit []) ho hs, byteBody_fillCommit b (s.emit []) h2 hlast]
      rfl
  · exact fun s hok => ⟨_, (exec_reset s).trans (operate_ok s _ hok), rfl⟩
  · intro i s t h hne
    cases exec_agentWrites i s t h with
    | decoder hi => exact .inr (decoder_init i s _ hi h hne)
    | reset hi => exact .inl ⟨rfl, hi⟩
    | _ => exact absurd rfl hne

/-! ### Waiting for the lock (R26, R64) -/

theorem byteStep_held (b : Byte) (s : State) (h : s.own ≠ .free) : byteStep b s = s :=
  foldl_byteStep_waits [b] s (.inr h)

/-- Settles O44: whatever needs the lock runs under it, and leaves the state to another owner. -/
theorem heldLockMakesAgentsWait : Obligations.HeldLockMakesAgentsWait := by
  intro i s hok ho hi
  have ho' : (s.emit []).own ≠ .free := ho
  have waits : ∀ f : State → State, f (s.emit []) = s.emit [] → operate s f = .next { s with out := [] } :=
    fun f hf => by rw [operate_ok s f hok, hf]; rfl
  obtain ⟨p, hp⟩ | ⟨n, hn⟩ | rfl | rfl | ht := hi
  · obtain ⟨b, rfl⟩ | hout := exec_stream_cases i p s hp
    · rw [exec_streamInstr]
      exact waits _ (byteStep_held b _ ho')
    · rw [hout]
      exact waits _ rfl
  · obtain ⟨r, payload, rfl⟩ := eq_rowrec_of_record i n hn
    refine waits _ ?_
    rw [foldl_byteStep_waits _ _ (.inr ho'), ite_self]
  · exact waits (fun s => underLock .ren s _) (underLock_held _ _ _ ho')
  · exact waits (fun s => underLock .snap s _) (underLock_held _ _ _ ho')
  · obtain ⟨c, hc⟩ := exec_tone i ht
    rw [hc]
    exact waits _ (underLock_held _ _ _ ho')

/-! ### The invariant of R39 -/

/-- Settles O35: reset lists no cell and no slot, so that every read of either memory is a free value. -/
theorem resetState : Obligations.ResetState :=
  fun _ => ⟨rfl, rfl, rfl, rfl, rfl, rfl, rfl, fun _ => rfl, fun _ => rfl, rfl⟩

theorem inv_resetWith (c : Config) (h : c.ok = true) : (State.resetWith c).Inv where
  cfgOk := h
  cntInRange := Nat.succ_pos _
  altInRange := by simp [State.resetWith]
  lockFree := rfl
  fbWf := rfl
  rbWf := rfl
  fbInRange := rfl
  rbInRange := rfl
  rowsWhole := fun _ _ => .inr fun _ _ => rfl
  initIffCommitted := by simp [State.resetWith]
  syncAStored := by simp [State.resetWith]
  syncBStored := by simp [State.resetWith]
  slotsStored := by simp [State.resetWith]

/-- Settles O49: nothing is stored, nothing is committed, nobody holds the lock. -/
theorem resetMeetsTheInvariant : Obligations.ResetMeetsTheInvariant :=
  ⟨inv_resetWith _ (by decide), inv_resetWith⟩

section
variable {s t : State} (h : s.Inv)
include h

/-- The invariant speaks of the parameters, the memories, `cnt`, `init`, `alt` and the lock alone. -/
theorem State.Inv.congr (hcfg : t.cfg = s.cfg) (hrb : t.rb = s.rb) (hcnt : t.cnt = s.cnt) (hinit : t.init = s.init)
    (hfb : t.fb = s.fb) (halt : t.alt < 3) (hown : t.own = s.own) : t.Inv := by
  obtain ⟨h1, h2, -, h4, h5, h6, h7, h8, h9, h10, h11, h12, h13⟩ := h
  constructor
  case altInRange => exact halt
  all_goals simp only [hcfg, hrb, hcnt, hinit, hfb, hown]; assumption

/-- Giving up the record under way keeps the invariant. -/
theorem State.Inv.setCnt_zero : (s.setCnt 0).Inv :=
  { h with
    cntInRange := Nat.succ_pos _
    syncAStored := by simp
    syncBStored := by simp
    slotsStored := by simp }

/-- Storing at or below the fill count keeps the invariant, up to the stored slot: slots 0 and 1 take their sync bytes
alone. -/
theorem State.Inv.storeSlot_setCnt (k n : Nat) (b : Byte) (hk : k ≤ s.cnt) (hn : n ≤ k + 1) (hT : n < s.cfg.T)
    (hA : k = 0 → b = syncA) (hB : k = 1 → b = syncB) : ((s.storeSlot k b).setCnt n).Inv :=
  { h with
    cntInRange := hT
    rbWf := wf_store s.rb k b h.rbWf
    rbInRange := below_store s.rb k _ b h.rbInRange (hk.trans_lt h.cntInRange)
    syncAStored := fun h1 => by
      rw [State.setCnt_rb, State.storeSlot_rb, lookup_store]
      split_ifs with h0
      · rw [hA h0.symm]
      · exact h.syncAStored (by omega)
    syncBStored := fun h2 => by
      rw [State.setCnt_cnt] at h2
      rw [State.setCnt_rb, State.storeSlot_rb, lookup_store]
      split_ifs with h1
      · rw [hB h1.symm]
      · exact h.syncBStored (by omega)
    slotsStored := fun j hj => by
      rw [State.setCnt_cnt] at hj
      rw [State.setCnt_rb, State.storeSlot_rb, lookup_store]
      split_ifs with hjk
      · rfl
      · exact h.slotsStored j (by omega) }

end

/-- Every row offset is the first cell of a row (R86, R131). -/
theorem rowOffset_eq_row_start (c : Config) (r : Byte) (h : c.ok = true) : ∃ y, rowOffset c r = y * c.L := by
  rw [rowOffset_eq c r h]
  split_ifs
  · exact ⟨_, rfl⟩
  · exact ⟨0, (Nat.zero_mul _).symm⟩

/-- The cells of two rows do not meet. -/
theorem cell_outside_row {L x y y' : Nat} (hx : x < L) (hy : y' ≠ y) :
    y' * L + x < y * L ∨ y * L + L ≤ y' * L + x := by
  rw [← Nat.succ_mul]
  obtain hlt | hgt := Nat.lt_or_gt_of_ne hy
  · have hmul : (y' + 1) * L ≤ y * L := Nat.mul_le_mul_right L hlt
    rw [Nat.succ_mul] at hmul
    exact .inl (by omega)
  · exact .inr ((Nat.mul_le_mul_right L hgt).trans (Nat.le_add_right _ _))

/-- Committing a row keeps the invariant: its cells are all written, and every other row is as before (R56). -/
theorem State.Inv.commitRow {s : State} (h : s.Inv) : s.commitRow.Inv := by
  obtain ⟨-, hL, hN⟩ := T_of_ok s.cfg h.cfgOk
  have hlen : (payloadOf s).length = s.cfg.L := (length_payloadOf s).trans hN
  have hne : payloadOf s ≠ [] := List.ne_nil_of_length_pos (by omega)
  exact { h.setCnt_zero with
    fbWf := wf_writeRow (payloadOf s) s.fb _ h.fbWf
    fbInRange := below_writeRow (payloadOf s) s.fb _ _ h.fbInRange
      (length_payloadOf s ▸ rowOffset_add_le s.cfg (rbAt s 2) h.cfgOk)
    initIffCommitted := by simp [writeRow_ne_nil (payloadOf s) s.fb _ hne]
    rowsWhole := fun y' hy' => by
      obtain ⟨y, hy⟩ := rowOffset_eq_row_start s.cfg (rbAt s 2) h.cfgOk
      simp only [State.commitRow_fb, State.commitRow_cfg, hy]
      by_cases heq : y' = y
      · subst heq
        exact .inl fun x hx => by rw [lookup_writeRow_inside _ _ _ _ (hlen.symm ▸ hx)]; rfl
      · have hout : ∀ x, x < s.cfg.L → Memory.lookup (Memory.writeRow s.fb (y * s.cfg.L) (payloadOf s))
            (y' * s.cfg.L + x) = Memory.lookup s.fb (y' * s.cfg.L + x) :=
          fun x hx => lookup_writeRow_outside _ _ _ _ (hlen.symm ▸ cell_outside_row hx heq)
        exact (h.rowsWhole y' hy').imp (fun hw x hx => hout x hx ▸ hw x hx) fun hi x hx => (hout x hx).trans (hi x hx) }

/-- BYTE keeps the invariant, in each of its cases. -/
theorem State.Inv.byteBody {s : State} (h : s.Inv) (b : Byte) : (byteBody b s).Inv := by
  obtain ⟨hT, hL, -⟩ := T_of_ok s.cfg h.cfgOk
  have hcnt := h.cntInRange
  obtain ⟨hc, -, hb⟩ | ⟨hc, -, hb⟩ | ⟨-, -, -, hb⟩ | ⟨hc, hne, hb⟩ | ⟨hc, -, hb⟩ := byteBody_cases b s <;> rw [hb]
  · exact h.storeSlot_setCnt 0 1 syncA (by omega) (by omega) (by omega) (fun _ => rfl) (by omega)
  · exact h.storeSlot_setCnt 1 2 syncB (by omega) (by omega) (by omega) (by omega) (fun _ => rfl)
  · exact h.setCnt_zero
  · exact h.storeSlot_setCnt s.cnt (s.cnt + 1) b (by omega) (by omega) (by omega) (by omega) (by omega)
  · exact (h.storeSlot_setCnt s.cnt 0 b (by omega) (by omega) (by omega) (by omega) (by omega)).commitRow

theorem State.Inv.byteStep {s : State} (h : s.Inv) (b : Byte) : (byteStep b s).Inv := by
  obtain ⟨-, -, hb⟩ | hb := byteStep_cases b s <;> rw [hb]
  · have hbody := h.byteBody b
    exact hbody.congr rfl rfl rfl rfl rfl hbody.altInRange rfl
  · exact h

theorem State.Inv.foldl_byteStep {s : State} (h : s.Inv) (bs : List Byte) :
    (bs.foldl (fun s b => Machine.byteStep b s) s).Inv := by
  induction bs generalizing s with
  | nil => exact h
  | cons b rest ih => exact ih (h.byteStep b)

theorem State.Inv.emit {s : State} (h : s.Inv) (os : List Output) : (s.emit os).Inv :=
  h.congr rfl rfl rfl rfl rfl h.altInRange rfl

/-- An operation of the decoder keeps the invariant: it is BYTE, a run of BYTE, or nothing. -/
theorem State.Inv.exec_decoder {i : Instr} {s t : State} (h : s.Inv)
    (hi : (∃ p, channelOf i = .stream p) ∨ ∃ n, channelOf i = .record n) (hexec : exec i s = .next t) : t.Inv := by
  obtain ⟨p, hp⟩ | ⟨n, hn⟩ := hi
  · obtain ⟨b, rfl⟩ | hout := exec_stream_cases i p s hp
    · rw [exec_streamInstr, operate_next_iff] at hexec
      exact hexec.2 ▸ (h.emit []).byteStep b
    · rw [hout, operate_next_iff] at hexec
      exact hexec.2 ▸ h.emit []
  · obtain ⟨r, payload, rfl⟩ := eq_rowrec_of_record i n hn
    simp only [exec, execRowrec, operate_next_iff] at hexec
    split_ifs at hexec
    · exact hexec.2 ▸ (h.emit []).foldl_byteStep _
    · exact hexec.2 ▸ h.emit []

/-- Every operation keeps the invariant. -/
theorem State.Inv.exec {i : Instr} {s t : State} (h : s.Inv) (hexec : exec i s = .next t) : t.Inv := by
  cases exec_agentWrites i s t hexec with
  | decoder hi => exact h.exec_decoder hi hexec
  | redraw _ alt _ _ halt =>
    refine h.congr rfl rfl rfl rfl rfl ?_ rfl
    obtain rfl | rfl := halt
    · exact h.altInRange
    · exact Nat.mod_lt _ (by omega)
  | reset =>
    have hreset := inv_resetWith s.cfg h.cfgOk
    exact hreset.congr rfl rfl rfl rfl rfl hreset.altInRange rfl
  | _ => exact h.congr rfl rfl rfl rfl rfl h.altInRange rfl

/-- Settles O50: taking an event and fetching its operation touch nothing the invariant speaks of, nor does an event at
the interface, and every operation keeps it. -/
theorem everyStepKeepsTheInvariant : Obligations.EveryStepKeepsTheInvariant := by
  intro s t h hstep
  obtain ⟨-, -, hidle⟩ | ⟨e, s1, hnext, hev⟩ := step_cases s
  · rw [hidle, operate_next_iff] at hstep
    exact hstep.2 ▸ h.emit []
  · have h1 : s1.Inv := by
      rw [nextEvent_frame s s1 e hnext]
      exact h.congr rfl rfl rfl rfl rfl h.altInRange rfl
    obtain ⟨i, s2, hfetch, hexec⟩ | ⟨-, heffect⟩ := hev
    · have h2 : s2.Inv := by
        rw [fetchEvent_frame e s1 s2 i hfetch]
        exact h1.congr rfl rfl rfl rfl rfl h1.altInRange rfl
      exact h2.exec (hexec ▸ hstep)
    · rw [heffect, operate_next_iff] at hstep
      rw [hstep.2, interfaceEffect_frame]
      exact h1.congr rfl rfl rfl rfl rfl h1.altInRange rfl

/-! ### The events that bring no operation -/

theorem accept_eq_none (s : State) (ch : Channel) (h : ∀ i rest, decode ch s.rx ≠ .ok (i, rest)) :
    s.accept ch = none := by
  unfold State.accept
  split
  · next hd => exact absurd hd (h _ _)
  · rfl

theorem apart_eq_none (s : State) (ch : Channel) (bs : List Byte) (h : ∀ i, decode ch bs ≠ .ok (i, [])) :
    s.apart ch bs = none := by
  unfold State.apart decodeWhole
  split
  · next hd => exact absurd hd (h _)
  · rfl
  · rfl

/-- Only the four codes are a tone (R85). -/
theorem decode_tone_ne_ok (b : Byte) (hb : 3 < b.toNat) (i : Instr) : decode .tone [b] ≠ .ok (i, []) := by
  have hne : ∀ c : Byte, c.toNat ≤ 3 → b ≠ c := by
    rintro c hc rfl
    omega
  simp [decode, decodeTone, hne]

/-- A scheduled event that brings no operation is its effect on the interface. -/
theorem step_of_fetchEvent_none (s : State) (e : Event) (es : List Event) (hok : s.cfg.ok = true)
    (hs : s.sched = e :: es) (hf : fetchEvent e { s with sched := es } = none) :
    step s = .next (interfaceEffect e { s with sched := es, out := [] }) := by
  have hn : s.nextEvent = some (e, { s with sched := es }) := by rw [State.nextEvent, hs]
  rw [step, runEvent, hn]
  simp only [hf]
  exact operate_ok _ _ hok

/-- With nothing scheduled and nobody waiting a step idles. -/
theorem step_of_waiting_nil (s : State) (hok : s.cfg.ok = true) (hs : s.sched = []) (hw : s.waiting = []) :
    step s = .next { s with out := [] } := by
  have hn : s.nextEvent = none := by rw [State.nextEvent, hs, hw]; rfl
  rw [step, runEvent, hn]
  exact operate_ok _ _ hok

/-- Settles O48: each event by what `fetchEvent` finds it cannot bring and what `interfaceEffect` makes of it. -/
theorem interfaceEvents : Obligations.InterfaceEvents := by
  intro s es hok
  refine ⟨?_, ?_, ?_, ?_, ?_, ?_, ?_, ?_, ?_, ?_, ?_, ?_, ?_, ?_⟩
  · exact fun b hs => step_of_fetchEvent_none s _ es hok hs rfl
  · exact fun hs => step_of_fetchEvent_none s _ es hok hs rfl
  · intro b b' rest hs hrx
    rw [step_of_fetchEvent_none s _ es hok hs rfl]
    simp [interfaceEffect, hrx]
  · intro b hs hrx
    rw [step_of_fetchEvent_none s _ es hok hs rfl]
    simp [interfaceEffect, hrx]
  · intro hs
    rw [step_of_fetchEvent_none s _ es hok hs rfl]
    cases s.redrawReq <;> simp [interfaceEffect]
  · intro hs
    rw [step_of_fetchEvent_none s _ es hok hs rfl]
    cases s.snapReq <;> simp [interfaceEffect]
  · exact fun hr hs => step_of_fetchEvent_none s _ es hok hs (by simp [fetchEvent, hr])
  · exact fun hr hs => step_of_fetchEvent_none s _ es hok hs (by simp [fetchEvent, hr])
  · exact fun hrx hs => step_of_fetchEvent_none s _ es hok hs (by simp [fetchEvent, State.accept, decode, hrx])
  · rintro ho (hs | hs | hs | hs) <;>
      exact step_of_fetchEvent_none s _ es hok hs (by simp [fetchEvent, State.inReady, ho])
  · intro hs hrec
    refine step_of_fetchEvent_none s _ es hok hs ?_
    rw [fetchEvent, ite_eq_right_iff]
    intro hgrant
    obtain h2 | hd := hrec
    · simp only [Bool.and_eq_true, decide_eq_true_eq] at hgrant
      omega
    · exact accept_eq_none _ _ hd
  · exact fun bs hs hd => step_of_fetchEvent_none s _ es hok hs (apart_eq_none _ _ bs hd)
  · exact fun b hs hb => step_of_fetchEvent_none s _ es hok hs (apart_eq_none _ _ [b] (decode_tone_ne_ok b hb))
  · exact fun hs hw => step_of_waiting_nil s hok hs ((waiting_eq_nil_iff s).mpr hw)

end Sys2Proof.Machine
end

section
/-! PROOFS. Memory and its access (20_memory.md): who writes the framebuffer and how much at once (R50, R56, R62),
and what an event of the schedule brings. -/

namespace Sys2Proof.Machine

/-! ### What an operation does to the framebuffer -/

/-- `t` is a commit on the framebuffer of `s`: of a state `v` that has stored the last byte of a record since `s` and has
written no cell. -/
def CommitsRow (s t : State) : Prop :=
  ∃ v : State, v.cfg = s.cfg ∧ v.fb = s.fb ∧ v.resets = s.resets ∧ t = v.commitRow.markDirty

/-- The row a commit goes to: the index in slot 2, or row 0 where that is no row (R86, R131). -/
def committedRow (s : State) : Nat := if (rbAt s 2).toNat < s.cfg.H then (rbAt s 2).toNat else 0

theorem rowOffset_slotTwo (s : State) (hok : s.cfg.ok = true) :
    rowOffset s.cfg (rbAt s 2) = committedRow s * s.cfg.L := by
  rw [rowOffset_eq s.cfg _ hok, committedRow, ite_mul, Nat.zero_mul]

/-- The claim of R56 and R62 about a write: `t` holds the payload of its record buffer in the row of the clamped index in
slot 2, and reads as `s` everywhere else. -/
def WritesWholeRow (s t : State) : Prop :=
  (∀ x, x < t.cfg.L → fbAt t (committedRow t * t.cfg.L + x) = rbAt t (3 + x)) ∧
  (∀ a, (a < committedRow t * t.cfg.L ∨ committedRow t * t.cfg.L + t.cfg.L ≤ a) → fbAt t a = fbAt s a) ∧
  t.init = true ∧ t.cnt = 0

/-- A read of the framebuffer depends on the written cells and the count of resets alone. -/
theorem fbAt_congr {s t : State} (hfb : t.fb = s.fb) (hresets : t.resets = s.resets) (a : Nat) :
    fbAt t a = fbAt s a := by rw [fbAt, fbAt, hfb, hresets]

theorem CommitsRow.writesWholeRow {s t : State} (h : CommitsRow s t) (hok : s.cfg.ok = true) :
    WritesWholeRow s t := by
  obtain ⟨v, hcfg, hfb, hresets, rfl⟩ := h
  rw [← hcfg] at hok
  obtain ⟨-, -, hN⟩ := T_of_ok v.cfg hok
  have hat : ∀ a, fbAt v.commitRow.markDirty a =
      if committedRow v * v.cfg.L ≤ a ∧ a < committedRow v * v.cfg.L + v.cfg.L then
        rbAt v (3 + (a - committedRow v * v.cfg.L))
      else fbAt s a := fun a => by
    rw [fbAt_markDirty, fbAt_commitRow, rowOffset_slotTwo v hok, hN, fbAt_congr hfb hresets]
  have hrow : committedRow v.commitRow.markDirty = committedRow v := rfl
  refine ⟨fun x hx => ?_, fun a ha => ?_, rfl, rfl⟩
  · rw [State.markDirty_cfg, State.commitRow_cfg] at hx ⊢
    rw [hat, hrow, if_pos (by omega), Nat.add_sub_cancel_left, rbAt_markDirty, rbAt_commitRow]
  · rw [State.markDirty_cfg, State.commitRow_cfg, hrow] at ha
    rw [hat, if_neg (by omega)]

/-- BYTE commits a row, as the last byte of a record, or leaves the framebuffer. -/
theorem byteStep_fb (b : Byte) (s : State) :
    ((byteStep b s).fb = s.fb ∧ (byteStep b s).resets = s.resets) ∨
    (streamInstr s b = .fillCommit b ∧ CommitsRow s (byteStep b s)) := by
  obtain ⟨-, -, hstep⟩ | hstep := byteStep_cases b s <;> rw [hstep]
  · obtain ⟨-, -, hb⟩ | ⟨-, -, hb⟩ | ⟨-, -, -, hb⟩ | ⟨-, -, hb⟩ | ⟨h2, hT, hb⟩ := byteBody_cases b s <;> rw [hb]
    · exact .inl ⟨rfl, rfl⟩
    · exact .inl ⟨rfl, rfl⟩
    · exact .inl ⟨rfl, rfl⟩
    · exact .inl ⟨rfl, rfl⟩
    · exact .inr ⟨streamInstr_lastByte s b h2 hT, s.storeSlot s.cnt b, rfl, rfl, rfl, rfl⟩
  · exact .inl ⟨rfl, rfl⟩

/-! ### A whole record -/

/-- Filling to the end of a record: the bytes go to the slots from `cnt` on, and the row is committed (R126, R127). -/
theorem foldl_byteStep_fill (bs : List Byte) (s : State) (ho : s.own = .free) (hs : s.stopped = false)
    (h2 : 2 ≤ s.cnt) (hne : bs ≠ []) (hT : s.cnt + bs.length = s.cfg.T) :
    bs.foldl (fun s b => byteStep b s) s =
      (State.commitRow { s with rb := Memory.writeRow s.rb s.cnt bs }).markDirty := by
  induction bs generalizing s with
  | nil => exact absurd rfl hne
  | cons b rest ih =>
    rw [List.length_cons] at hT
    rw [List.foldl_cons, byteStep_ready b s ho hs]
    cases rest with
    | nil => rw [byteBody_fillCommit b s h2 hT]; rfl
    | cons b' rest =>
      rw [List.length_cons] at hT ih
      rw [byteBody_fillStore b s h2 (by omega)]
      refine (ih ((s.storeSlot s.cnt b).setCnt (s.cnt + 1)).markDirty ho hs ?_ (List.cons_ne_nil _ _) ?_).trans rfl
      · show 2 ≤ s.cnt + 1
        omega
      · show s.cnt + 1 + (rest.length + 1) = s.cfg.T
        omega

/-- SYNC_A starts a record, from either awaiting state (R121, R124). -/
theorem byteBody_syncA (s : State) (h : s.cnt ≤ 1) : byteBody syncA s = (s.storeSlot 0 syncA).setCnt 1 := by
  obtain h0 | h1 := Nat.le_one_iff_eq_zero_or_eq_one.mp h
  · exact byteBody_sync1Hit s h0
  · exact byteBody_sync2Restart s h1

/-- A byte that neither starts a record nor goes on with one ends what there was of it (R122, R125). -/
theorem byteBody_dropped (b : Byte) (s : State) (h : s.cnt ≤ 1) (hA : b ≠ syncA) (hB : s.cnt = 1 → b ≠ syncB) :
    byteBody b s = s.setCnt 0 := by
  obtain h0 | h1 := Nat.le_one_iff_eq_zero_or_eq_one.mp h
  · rw [byteBody_sync1Skip b s h0 hA, State.setCnt, ← h0]
  · exact byteBody_sync2Drop b s h1 hA (hB h1)

/-- The bytes of a record met by a ready decoder outside a record: they fill the record buffer from slot 0 on, and the
row is committed (R129). -/
theorem foldl_byteStep_record (r : Byte) (payload : List Byte) (s : State) (ho : s.own = .free)
    (hs : s.stopped = false) (hc : s.cnt ≤ 1) (hlen : payload.length = s.cfg.N) :
    (recordBytes r payload).foldl (fun s b => byteStep b s) s =
      (State.commitRow { s with rb := Memory.writeRow s.rb 0 (recordBytes r payload) }).markDirty := by
  rw [recordBytes, List.foldl_cons, byteStep_ready syncA s ho hs, byteBody_syncA s hc, List.foldl_cons,
    byteStep_ready syncB ((s.storeSlot 0 syncA).setCnt 1).markDirty ho hs, byteBody_sync2Hit _ rfl]
  refine (foldl_byteStep_fill (r :: payload)
    ((((s.storeSlot 0 syncA).setCnt 1).markDirty.storeSlot 1 syncB).setCnt 2).markDirty
    ho hs (Nat.le_refl 2) (List.cons_ne_nil _ _) ?_).trans rfl
  show 2 + (payload.length + 1) = s.cfg.N + 3
  omega

/-- ROWREC commits one row, or nothing happens. -/
theorem rowrec_fb {s t : State} (r : Byte) (payload : List Byte) (h : exec (.rowrec r payload) s = .next t) :
    (t.fb = s.fb ∧ t.resets = s.resets) ∨ CommitsRow s t := by
  obtain ⟨-, rfl⟩ := (operate_next_iff ..).mp h
  split_ifs with hcan
  · by_cases hready : s.own = .free ∧ s.stopped = false
    · exact .inr ⟨{ s.emit [] with rb := Memory.writeRow s.rb 0 (recordBytes r payload) }, rfl, rfl, rfl,
        foldl_byteStep_record r payload (s.emit []) hready.1 hready.2 hcan.1 hcan.2⟩
    · have hwait : (s.emit []).stopped = true ∨ (s.emit []).own ≠ .free := by
        rw [State.emit_stopped, State.emit_own, ← Bool.not_eq_false]; tauto
      rw [foldl_byteStep_waits _ _ hwait]
      exact .inl ⟨rfl, rfl⟩
  · exact .inl ⟨rfl, rfl⟩

/-! ### The writers of the framebuffer -/

/-- An operation other than RESET leaves the framebuffer, or is a commit of one row (R56). -/
theorem exec_fb {i : Instr} {s t : State} (h : exec i s = .next t) (hne : i ≠ .reset) :
    (t.fb = s.fb ∧ t.resets = s.resets) ∨
    (((∃ b, i = .fillCommit b) ∨ ∃ r payload, i = .rowrec r payload) ∧ CommitsRow s t) := by
  cases exec_agentWrites i s t h with
  | decoder hi =>
    obtain ⟨p, hp⟩ | ⟨n, hn⟩ := hi
    · obtain ⟨b, rfl⟩ | hout := exec_stream_cases i p s hp
      · rw [exec_streamInstr, operate_next_iff] at h
        rw [h.2]
        exact (byteStep_fb b (s.emit [])).imp id fun hc => ⟨.inl ⟨b, hc.1⟩, hc.2⟩
      · rw [hout, operate_next_iff] at h
        rw [h.2]
        exact .inl ⟨rfl, rfl⟩
    · obtain ⟨r, payload, rfl⟩ := eq_rowrec_of_record i n hn
      exact (rowrec_fb r payload h).imp id fun hc => ⟨.inr ⟨r, payload, rfl⟩, hc⟩
  | reset hi => exact absurd hi hne
  | _ => exact .inl ⟨rfl, rfl⟩

/-- Settles O43: an operation that is no RESET and no commit leaves the cells and the count of resets that a read
depends on. -/
theorem framebufferWriters : Obligations.FramebufferWriters := by
  intro i s t h hreset hcommit hrecord
  obtain ⟨hfb, hresets⟩ | ⟨⟨b, hi⟩ | ⟨r, payload, hi⟩, -⟩ := exec_fb h hreset
  · exact ⟨hfb, fbAt_congr hfb hresets⟩
  · exact absurd hi (hcommit b)
  · exact absurd hi (hrecord r payload)

/-! ### What an event brings -/

/-- The decoder answers operations of the channel it reads. -/
theorem channelOf_of_decode {ch : Channel} {bs rest : List Byte} {i : Instr} (h : decode ch bs = .ok (i, rest)) :
    channelOf i = ch := by
  cases ch with
  | stream p =>
    cases bs <;> simp only [decode, reduceCtorEq, Except.ok.injEq, Prod.mk.injEq] at h
    rw [← h.1]
    cases p with
    | awaitingSync1 | awaitingSync2 => simp only [decodeStream]; split_ifs <;> rfl
    | filling | lastByte => rfl
  | record n =>
    simp only [decode, decodeRecord] at h
    split at h
    · split_ifs at h with _ hn
      simp only [Except.ok.injEq, Prod.mk.injEq] at h
      simp [← h.1, channelOf, hn]
    · cases h
  | cell =>
    cases bs <;> simp only [decode, reduceCtorEq, Except.ok.injEq, Prod.mk.injEq] at h
    rw [← h.1]; rfl
  | tone =>
    cases bs <;> simp only [decode, decodeTone, reduceCtorEq] at h
    split_ifs at h <;> cases h <;> rfl
  | wire w =>
    cases w <;> cases h <;> rfl
  | upstream =>
    simp only [decode, decodeUpstream] at h
    repeat' split at h
    all_goals cases h
    all_goals rfl

theorem apart_eq_some {s s' : State} {ch : Channel} {bs : List Byte} {i : Instr} (h : s.apart ch bs = some (i, s')) :
    channelOf i = ch ∧ s' = s := by
  simp only [State.apart, decodeWhole, Option.map_eq_some_iff, Prod.mk.injEq] at h
  obtain ⟨j, hj, rfl, rfl⟩ := h
  split at hj
  · next hd => cases hj; exact ⟨channelOf_of_decode hd, rfl⟩
  · cases hj
  · cases hj

theorem accept_eq_some {s s' : State} {ch : Channel} {i : Instr} (h : s.accept ch = some (i, s')) :
    ∃ rest, decode ch s.rx = .ok (i, rest) ∧ s' = { s with rx := rest } := by
  simp only [State.accept] at h
  split at h
  · next hd => cases h; exact ⟨_, hd, rfl⟩
  · cases h

/-- What an event can bring: the oldest byte on offer or a record of them, accepted by a ready decoder, or an operation
that takes no byte. -/
inductive Fetched (e : Event) (s : State) : Instr → State → Prop where
  /-- A byte accepted (R171). -/
  | byte (b : Byte) (rest : List Byte) (hready : s.inReady = true) (hrx : s.rx = b :: rest) :
      Fetched e s (streamInstr s b) { s with rx := rest }
  /-- A record accepted. -/
  | record (r : Byte) (payload rest : List Byte) (hready : s.inReady = true) (hc : s.cnt ≤ 1)
      (hlen : payload.length = s.cfg.N) (hrx : s.rx = recordBytes r payload ++ rest) :
      Fetched e s (.rowrec r payload) { s with rx := rest }
  /-- A request served, a wire, an upstream sequence or a look-up; RESET is brought by its own wire alone. -/
  | apart (i : Instr) (hreset : i = .reset → e = .reset) : Fetched e s i s

theorem fetched_of_fetchEvent {e : Event} {s s' : State} {i : Instr} (h : fetchEvent e s = some (i, s')) :
    Fetched e s i s' := by
  have other : ∀ ch bs, s.apart ch bs = some (i, s') → (ch = .wire .reset → e = .reset) → Fetched e s i s' := by
    intro ch bs h hch
    obtain ⟨hi, rfl⟩ := apart_eq_some h
    exact .apart i fun hr => hch (by rw [← hi, hr]; rfl)
  cases e <;> simp only [fetchEvent, Option.ite_none_right_eq_some, reduceCtorEq, Bool.and_eq_true,
    decide_eq_true_eq] at h
  case grantDec =>
    obtain ⟨hready, h⟩ := h
    obtain ⟨rest, hd, rfl⟩ := accept_eq_some h
    cases hrx : s.rx with
    | nil => simp [decode, hrx] at hd
    | cons b bs =>
      simp only [decode, hrx, Except.ok.injEq, Prod.mk.injEq] at hd
      obtain ⟨rfl, rfl⟩ := hd
      exact .byte b bs hready hrx
  case grantRecord =>
    obtain ⟨⟨hready, hc⟩, h⟩ := h
    obtain ⟨rest, hd, rfl⟩ := accept_eq_some h
    simp only [decode, decodeRecord] at hd
    split at hd
    · next a b r bs hrx =>
      split_ifs at hd with hsync hn
      simp only [Except.ok.injEq, Prod.mk.injEq] at hd
      obtain ⟨rfl, rfl⟩ := hd
      refine .record r _ _ hready hc (List.length_take_of_le hn) ?_
      simp [hrx, recordBytes, hsync]
    · cases hd
  case grantRen => exact other _ _ h.2 nofun
  case grantSnap => exact other _ _ h.2 nofun
  case drain => exact other _ _ h nofun
  case stop => exact other _ _ h nofun
  case reset => exact other _ _ h fun _ => rfl
  case tx bs => exact other _ _ h nofun
  case cellLookup b => exact other _ _ h nofun
  case toneLookup b => exact other _ _ h nofun

/-- An event is the schedule's next, or the grant of an agent that waits. -/
theorem nextEvent_origin {s s1 : State} {e : Event} (h : s.nextEvent = some (e, s1)) :
    s.sched.head? = some e ∨ e ∈ s.waiting := by
  obtain ⟨e', es, hs, hn⟩ | ⟨-, -, hn⟩ | ⟨-, e', he', hn⟩ := nextEvent_cases s <;> rw [hn] at h <;> cases h
  · exact .inl (by rw [hs]; rfl)
  · exact .inr he'

/-- An event that is no grant comes from the schedule. -/
theorem head?_of_nextEvent {s s1 : State} {e : Event} (h : s.nextEvent = some (e, s1)) (hDec : e ≠ .grantDec)
    (hRen : e ≠ .grantRen) (hSnap : e ≠ .grantSnap) : s.sched.head? = some e := by
  refine (nextEvent_origin h).resolve_right fun hw => ?_
  obtain ⟨-, ⟨he, -⟩ | ⟨he, -⟩ | ⟨he, -⟩⟩ := (mem_waiting s e).mp hw
  · exact hDec he
  · exact hRen he
  · exact hSnap he

/-- A step that runs RESET is the schedule's. -/
theorem head?_of_fetch_reset {s s1 s2 : State} {e : Event} (hn : s.nextEvent = some (e, s1))
    (hf : fetchEvent e s1 = some (.reset, s2)) : s.sched.head? = some .reset := by
  generalize hi : Instr.reset = i at hf
  cases fetched_of_fetchEvent hf with
  | byte b rest =>
    have hch := congrArg channelOf hi
    rw [streamInstr, channelOf_of_decode (ch := .stream _) (bs := [b]) rfl] at hch
    cases hch
  | record => cases hi
  | apart _ hreset =>
    obtain rfl := hreset hi.symm
    exact head?_of_nextEvent hn nofun nofun nofun

/-! ### Row atomicity -/

/-- Settles O51: of a step that is no RESET only the operation can write the framebuffer, and it writes by a commit of
one row. -/
theorem rowsAreWrittenWhole : Obligations.RowsAreWrittenWhole := by
  intro s t hhead hstep
  obtain ⟨-, -, hidle⟩ | ⟨e, s1, hnext, hev⟩ := step_cases s
  · rw [hidle, operate_next_iff] at hstep
    rw [hstep.2]
    exact .inl fun _ => rfl
  · obtain ⟨i, s2, hfetch, hexec⟩ | ⟨-, heffect⟩ := hev
    · have hne : i ≠ .reset := by
        rintro rfl
        exact hhead (head?_of_fetch_reset hnext hfetch)
      have hread : ∀ a, fbAt s2 a = fbAt s a := by
        rw [fetchEvent_frame e s1 s2 i hfetch, nextEvent_frame s s1 e hnext]
        exact fun _ => rfl
      rw [hexec] at hstep
      obtain ⟨hfb, hresets⟩ | ⟨-, hcommit⟩ := exec_fb hstep hne
      · exact .inl fun a => (fbAt_congr hfb hresets a).trans (hread a)
      · obtain ⟨hin, hout, hrest⟩ := hcommit.writesWholeRow (cfgOk_of_exec_next i s2 t hstep)
        exact .inr ⟨hin, fun a ha => (hout a ha).trans (hread a), hrest⟩
    · rw [heffect, operate_next_iff] at hstep
      rw [hstep.2, interfaceEffect_frame, nextEvent_frame s s1 e hnext]
      exact .inl fun _ => rfl

end Sys2Proof.Machine
end

section
/-! PROOFS. What the decoder depends on (R67) and the service of the agents that wait for the lock (R65). -/

namespace Sys2Proof.Machine

/-! ### What the decoder depends on -/

/-- The states of one decoder: the same parameters, the same fill count, and slots below `T` that read alike. -/
structure SameDecoder (s s' : State) : Prop where
  cfg : s.cfg = s'.cfg
  cnt : s.cnt = s'.cnt
  slots : ∀ k, k < s.cfg.T → rbAt s k = rbAt s' k

/-- `t` is `s` with `bytes` written from `off` on, and `init` set where there is a byte. -/
def WritesAt (s t : State) (off : Nat) (bytes : List Byte) : Prop :=
  t.fb = Memory.writeRow s.fb off bytes ∧ (bytes = [] → t.init = s.init) ∧ (bytes ≠ [] → t.init = true)

theorem writesAt_nil {s t : State} (hfb : t.fb = s.fb) (hinit : t.init = s.init) : WritesAt s t 0 [] :=
  ⟨hfb, fun _ => hinit, absurd rfl⟩

theorem writesAt_commitRow (s : State) (hok : s.cfg.ok = true) :
    WritesAt s s.commitRow (rowOffset s.cfg (rbAt s 2)) (payloadOf s) := by
  obtain ⟨-, hL, hN⟩ := T_of_ok s.cfg hok
  have hne : payloadOf s ≠ [] := List.ne_nil_of_length_pos (by rw [length_payloadOf]; omega)
  exact ⟨rfl, fun h => absurd h hne, fun _ => rfl⟩

namespace SameDecoder
variable {s s' : State} (h : SameDecoder s s')
include h

theorem setCnt (n : Nat) : SameDecoder (s.setCnt n) (s'.setCnt n) := ⟨h.cfg, rfl, h.slots⟩

theorem storeSlot (k : Nat) (b : Byte) : SameDecoder (s.storeSlot k b) (s'.storeSlot k b) where
  cfg := h.cfg
  cnt := h.cnt
  slots j hj := by rw [rbAt_storeSlot, rbAt_storeSlot, h.slots j hj]

theorem commitRow : SameDecoder s.commitRow s'.commitRow := ⟨h.cfg, rfl, h.slots⟩

theorem streamInstr_eq (b : Byte) : streamInstr s b = streamInstr s' b := by
  rw [streamInstr, streamInstr, h.cfg, h.cnt]

theorem rowOffset_eq : rowOffset s.cfg (rbAt s 2) = rowOffset s'.cfg (rbAt s' 2) := by
  rw [← h.cfg, h.slots 2 (by rw [Config.T]; omega)]

theorem payloadOf_eq : payloadOf s = payloadOf s' := by
  rw [payloadOf, payloadOf, ← h.cfg]
  refine List.map_congr_left fun j hj => h.slots _ ?_
  have := List.mem_range.mp hj
  rw [Config.T]
  omega

/-- R67: one byte is the same case of R120 in both states, so that the slots, the count and what is written agree. -/
theorem byteBody (hok : s.cfg.ok = true) (b : Byte) : ∃ off bytes,
    SameDecoder (Machine.byteBody b s) (Machine.byteBody b s') ∧
    WritesAt s (Machine.byteBody b s) off bytes ∧ WritesAt s' (Machine.byteBody b s') off bytes := by
  obtain ⟨hc, rfl, hb⟩ | ⟨hc, rfl, hb⟩ | ⟨hc, hA, hB, hb⟩ | ⟨h2, hT, hb⟩ | ⟨h2, hT, hb⟩ := byteBody_cases b s
  · rw [hb, byteBody_syncA s' (h.cnt ▸ hc)]
    exact ⟨0, [], (h.storeSlot 0 _).setCnt 1, writesAt_nil rfl rfl, writesAt_nil rfl rfl⟩
  · rw [hb, byteBody_sync2Hit s' (h.cnt ▸ hc)]
    exact ⟨0, [], (h.storeSlot 1 _).setCnt 2, writesAt_nil rfl rfl, writesAt_nil rfl rfl⟩
  · rw [hb, byteBody_dropped b s' (h.cnt ▸ hc) hA (h.cnt ▸ hB)]
    exact ⟨0, [], h.setCnt 0, writesAt_nil rfl rfl, writesAt_nil rfl rfl⟩
  · rw [hb, byteBody_fillStore b s' (h.cnt ▸ h2) (h.cfg ▸ h.cnt ▸ hT), ← h.cnt]
    exact ⟨0, [], (h.storeSlot _ b).setCnt _, writesAt_nil rfl rfl, writesAt_nil rfl rfl⟩
  · rw [hb, byteBody_fillCommit b s' (h.cnt ▸ h2) (h.cfg ▸ h.cnt ▸ hT), ← h.cnt]
    have hlast := h.storeSlot s.cnt b
    refine ⟨_, _, hlast.commitRow, writesAt_commitRow (s.storeSlot s.cnt b) hok, ?_⟩
    rw [hlast.rowOffset_eq, hlast.payloadOf_eq]
    exact writesAt_commitRow (s'.storeSlot s.cnt b) (h.cfg ▸ hok)

end SameDecoder

/-- The byte a ready decoder consumes is R120's function, with `dirty` set (R174). -/
theorem exec_streamInstr_ready (s : State) (b : Byte) (h : s.Ready) :
    exec (streamInstr s b) s = .next (byteBody b (s.emit [])).markDirty := by
  obtain ⟨hok, ho, hs⟩ := h
  rw [exec_streamInstr, operate_ok s _ hok, byteStep_ready b (s.emit []) ho hs]

/-- Settles O24: the byte is the same case of BYTE in both states, and does the same to the decoder. -/
theorem decodingIgnoresTheFramebuffer : Obligations.DecodingIgnoresTheFramebuffer := by
  intro s s' b hready hready' hcfg hcnt hslots
  have hsame : SameDecoder (s.emit []) (s'.emit []) := ⟨hcfg, hcnt, hslots⟩
  obtain ⟨off, bytes, hafter, ⟨hfb, hnil, hcons⟩, hfb', hnil', hcons'⟩ := hsame.byteBody hready.1 b
  have hT : (byteBody b (s.emit [])).cfg = s.cfg := by rw [byteBody_frame]; rfl
  exact ⟨hsame.streamInstr_eq b, _, _, off, bytes, exec_streamInstr_ready s b hready,
    exec_streamInstr_ready s' b hready', fun k hk => hafter.slots k (hT ▸ hk), hafter.cnt, hfb, hfb',
    fun h => ⟨hnil h, hnil' h⟩, fun h => ⟨hcons h, hcons' h⟩⟩

/-! ### The grants of the arbiter -/

/-- A step whose event brings an operation runs it. -/
theorem step_of_fetchEvent {s s1 s2 : State} {e : Event} {i : Instr} (hn : s.nextEvent = some (e, s1))
    (hf : fetchEvent e s1 = some (i, s2)) : step s = exec i s2 := by
  rw [step, runEvent, hn]
  simp only [hf]

/-- Settles O56: the arbiter picks one of those that wait, and the grant brings its operation. -/
theorem idleArbiterGrantsAWaitingAgent : Obligations.IdleArbiterGrantsAWaitingAgent := by
  rintro s ⟨-, ho⟩ hs hwho
  obtain ⟨e, es, hs', -⟩ | ⟨-, hw, -⟩ | ⟨-, e, he, hn⟩ := nextEvent_cases s
  · simp [hs] at hs'
  · obtain hheld | ⟨hren, hsnap, hdec⟩ := (waiting_eq_nil_iff s).mp hw
    · exact absurd ho hheld
    · obtain hr | hr | ⟨hr, hrx⟩ := hwho
      · simp [hren] at hr
      · simp [hsnap] at hr
      · simp [hr, hrx] at hdec
  · obtain ⟨-, hr, hf⟩ | ⟨-, hr, hf⟩ | ⟨-, hr, b, rest, hrx, hf⟩ :=
      fetchEvent_of_waiting s { s with grants := s.grants + 1 } e he ⟨rfl, rfl, rfl, rfl, rfl, rfl, rfl⟩
    · exact .inl ⟨hr, step_of_fetchEvent hn hf⟩
    · exact .inr (.inl ⟨hr, step_of_fetchEvent hn hf⟩)
    · exact .inr (.inr ⟨hr, b, rest, hrx, step_of_fetchEvent hn hf⟩)

/-! ### How a latched request ends -/

/-- REDRAW under a free lock, as an exact next state (R140, R150, R152). -/
theorem exec_redraw_free (s : State) (h : s.LockFree) :
    exec .redraw s = .next { s with
      alt := altNext s.alt
      redrawReq := false
      out := [.frame (plane s.cfg s.alt (memReadAll s)) true (!s.init)] } := by
  obtain ⟨hok, ho⟩ := h
  simp only [exec, execRedraw]
  rw [operate_ok s _ hok, underLock_free .ren (s.emit []) _ ho, State.setOwn, ← ho]
  rfl

/-- SNAPSHOT under a free lock, as an exact next state (R160, R165). -/
theorem exec_snapshot_free (s : State) (h : s.LockFree) :
    exec .snapshot s = .next { s with
      snapReq := false
      out := (snapshotOrder s.cfg (memReadAll s)).map .snapByte ++ [.snapDone] } := by
  obtain ⟨hok, ho⟩ := h
  simp only [exec, execSnapshot]
  rw [operate_ok s _ hok, underLock_free .snap (s.emit []) _ ho, State.setOwn, ← ho]
  rfl

section
variable {i : Instr} {s t : State} (h : exec i s = .next t)
include h

/-- The latched tick stands, or ends with RESET or with a FRAME. -/
theorem exec_redrawReq : t.redrawReq = s.redrawReq ∨
    (t.redrawReq = false ∧ (i = .reset ∨ ∃ pix border overlay, t.out = [.frame pix border overlay])) := by
  have hok := cfgOk_of_exec_next i s t h
  cases exec_agentWrites i s t h with
  | redraw hi =>
    subst hi
    by_cases ho : s.own = .free
    · rw [exec_redraw_free s ⟨hok, ho⟩] at h
      cases h
      exact .inr ⟨rfl, .inr ⟨_, _, _, rfl⟩⟩
    · rw [heldLockMakesAgentsWait .redraw s hok ho (.inr (.inr (.inl rfl)))] at h
      cases h
      exact .inl rfl
  | reset hi => exact .inr ⟨rfl, .inl hi⟩
  | _ => exact .inl rfl

/-- The latched trigger stands, or ends with RESET or at the end of a SNAPSHOT. -/
theorem exec_snapReq : t.snapReq = s.snapReq ∨
    (t.snapReq = false ∧ (i = .reset ∨ t.out.getLast? = some .snapDone)) := by
  have hok := cfgOk_of_exec_next i s t h
  cases exec_agentWrites i s t h with
  | snapshot hi =>
    subst hi
    by_cases ho : s.own = .free
    · rw [exec_snapshot_free s ⟨hok, ho⟩] at h
      cases h
      exact .inr ⟨rfl, .inr List.getLast?_concat⟩
    · rw [heldLockMakesAgentsWait .snapshot s hok ho (.inr (.inr (.inr (.inl rfl))))] at h
      cases h
      exact .inl rfl
  | reset hi => exact .inr ⟨rfl, .inl hi⟩
  | _ => exact .inl rfl

end

theorem inReady_iff (s : State) : s.inReady = true ↔ s.stopped = false ∧ s.own = .free := by
  simp [State.inReady]

/-- ROWREC of a ready decoder sets `dirty`, as each of its bytes does (R174). -/
theorem dirty_of_rowrec {s t : State} (r : Byte) (payload : List Byte) (ho : s.own = .free) (hs : s.stopped = false)
    (hc : s.cnt ≤ 1) (hlen : payload.length = s.cfg.N) (h : exec (.rowrec r payload) s = .next t) :
    t.dirty = true := by
  obtain ⟨-, rfl⟩ := (operate_next_iff ..).mp h
  rw [if_pos ⟨hc, hlen⟩, foldl_byteStep_record r payload (s.emit []) ho hs hc hlen]
  rfl

/-- Bytes leave the transport for an operation only by the acceptance of a ready decoder, which sets `dirty`. -/
theorem Fetched.rx_or_accepted {e : Event} {s s' t : State} {i : Instr} (hf : Fetched e s i s')
    (h : exec i s' = .next t) : t.rx = s.rx ∨ (s.own = .free ∧ s.stopped = false ∧ t.dirty = true) := by
  have hok := cfgOk_of_exec_next i s' t h
  cases hf with
  | byte b rest hready =>
    obtain ⟨hs, ho⟩ := (inReady_iff s).mp hready
    have h' := exec_streamInstr_ready { s with rx := rest } b ⟨hok, ho, hs⟩
    cases h.symm.trans h'
    exact .inr ⟨ho, hs, rfl⟩
  | record r payload rest hready hc hlen =>
    obtain ⟨hs, ho⟩ := (inReady_iff s).mp hready
    exact .inr ⟨ho, hs, dirty_of_rowrec (s := { s with rx := rest }) r payload ho hs hc hlen h⟩
  | apart =>
    obtain ⟨⟨-, hrx, -⟩, -⟩ := accessRights i s t h
    exact .inl hrx

/-! ### What an event at the interface does to those that wait -/

section
variable (e : Event) (s : State)

theorem interfaceEffect_redrawReq (h : s.redrawReq = true) : (interfaceEffect e s).redrawReq = true := by
  cases e with
  | corrupt => simp only [interfaceEffect]; split <;> exact h
  | redrawTick => rw [interfaceEffect, if_pos h]; exact h
  | snapTrigger => rw [interfaceEffect]; split_ifs <;> exact h
  | _ => exact h

theorem interfaceEffect_snapReq (h : s.snapReq = true) : (interfaceEffect e s).snapReq = true := by
  cases e with
  | corrupt => simp only [interfaceEffect]; split <;> exact h
  | redrawTick => rw [interfaceEffect]; split_ifs <;> exact h
  | snapTrigger => rw [interfaceEffect, if_pos h]; exact h
  | _ => exact h

/-- Of the events at the interface only a loss makes the bytes on offer fewer. -/
theorem interfaceEffect_rx_length (hne : e ≠ .lose) : s.rx.length ≤ (interfaceEffect e s).rx.length := by
  cases e with
  | offer => simp [interfaceEffect]
  | lose => exact absurd rfl hne
  | corrupt => simp only [interfaceEffect]; split <;> simp [*]
  | redrawTick | snapTrigger => rw [interfaceEffect]; split_ifs <;> exact le_refl _
  | _ => exact le_refl _

end

/-- Settles O58: each way a step can go keeps the requests that wait, but for the service, the RESET and the loss that
the statement names. -/
theorem requestsEndOnlyWhenServed : Obligations.RequestsEndOnlyWhenServed := by
  intro s t hstep
  obtain ⟨-, -, hidle⟩ | ⟨e, s1, hnext, hev⟩ := step_cases s
  · rw [hidle, operate_next_iff] at hstep
    rw [hstep.2]
    exact ⟨fun h h' => absurd (h.symm.trans h') nofun, fun h h' => absurd (h.symm.trans h') nofun,
      fun h => absurd h (Nat.lt_irrefl _)⟩
  · have hs1 := nextEvent_frame s s1 e hnext
    have hren : s1.redrawReq = s.redrawReq := by rw [hs1]
    have hsnap : s1.snapReq = s.snapReq := by rw [hs1]
    have hrx : s1.rx = s.rx := by rw [hs1]
    have hown : s1.own = s.own := by rw [hs1]
    have hstop : s1.stopped = s.stopped := by rw [hs1]
    obtain ⟨i, s2, hfetch, hexec⟩ | ⟨-, heffect⟩ := hev
    · rw [hexec] at hstep
      have hs2 := fetchEvent_frame e s1 s2 i hfetch
      have hreset : i = .reset → s.sched.head? = some .reset := by
        rintro rfl
        exact head?_of_fetch_reset hnext hfetch
      refine ⟨fun h h' => ?_, fun h h' => ?_, fun hlt => .inr ?_⟩
      · obtain hkept | ⟨-, hi | hframe⟩ := exec_redrawReq hstep
        · rw [hs2, hren, h, h'] at hkept
          cases hkept
        · exact .inl (hreset hi)
        · exact .inr hframe
      · obtain hkept | ⟨-, hi | hdone⟩ := exec_snapReq hstep
        · rw [hs2, hsnap, h, h'] at hkept
          cases hkept
        · exact .inl (hreset hi)
        · exact .inr hdone
      · obtain hkept | haccepted := (fetched_of_fetchEvent hfetch).rx_or_accepted hstep
        · rw [hkept, hrx] at hlt
          exact absurd hlt (Nat.lt_irrefl _)
        · rwa [hown, hstop] at haccepted
    · rw [heffect, operate_next_iff] at hstep
      obtain ⟨-, rfl⟩ := hstep
      refine ⟨fun h h' => ?_, fun h h' => ?_, fun hlt => .inl ?_⟩
      · rw [interfaceEffect_redrawReq e (s1.emit []) (hren.trans h)] at h'
        cases h'
      · rw [interfaceEffect_snapReq e (s1.emit []) (hsnap.trans h)] at h'
        cases h'
      · have hlose : e = .lose := by
          by_contra hne
          have hle := interfaceEffect_rx_length e (s1.emit []) hne
          rw [State.emit_rx, hrx] at hle
          omega
        subst hlose
        exact head?_of_nextEvent hnext nofun nofun nofun

/-! ### Every request is served in the end -/

/-- The requests that wait: bytes on offer and latched pulses. -/
def State.pending (s : State) : Nat := s.rx.length + s.redrawReq.toNat + s.snapReq.toNat

/-- The measure of R65's fairness: a scheduled event adds at most one request, so that two for each event and one for
each request are enough. -/
def State.workLeft (s : State) : Nat := 2 * s.sched.length + s.pending

theorem State.workLeft_le (s : State) : s.workLeft ≤ 2 * s.sched.length + s.rx.length + 2 := by
  have hren := s.redrawReq.toNat_le
  have hsnap := s.snapReq.toNat_le
  rw [State.workLeft, State.pending]
  omega

/-- A latch that stands or ends counts for no more than it did. -/
theorem latch_toNat_le {x y : Bool} (h : x = y ∨ x = false) : x.toNat ≤ y.toNat := by
  obtain rfl | rfl := h
  · exact le_refl _
  · exact Nat.zero_le _

/-- An operation adds no request. -/
theorem exec_pending_le {i : Instr} {s t : State} (h : exec i s = .next t) : t.pending ≤ s.pending := by
  obtain ⟨⟨-, hrx, -⟩, -⟩ := accessRights i s t h
  have hren := latch_toNat_le ((exec_redrawReq h).imp id And.left)
  have hsnap := latch_toNat_le ((exec_snapReq h).imp id And.left)
  rw [State.pending, State.pending, hrx]
  omega

theorem Fetched.pending_le {e : Event} {s s' : State} {i : Instr} (h : Fetched e s i s') :
    s'.pending ≤ s.pending := by
  cases h with
  | byte b rest _ hrx =>
    simp only [State.pending, hrx, List.length_cons]
    omega
  | record r payload rest _ _ _ hrx =>
    simp only [State.pending, hrx, List.length_append]
    omega
  | apart => exact le_refl _

/-- An event at the interface adds at most one request. -/
theorem interfaceEffect_pending_le (e : Event) (s : State) : (interfaceEffect e s).pending ≤ s.pending + 1 := by
  cases e with
  | offer => simp only [interfaceEffect, State.pending, List.length_append, List.length_singleton]; omega
  | lose => simp only [interfaceEffect, State.pending, List.length_tail]; omega
  | corrupt => simp only [interfaceEffect]; split <;> simp [State.pending, *]
  | redrawTick => cases hr : s.redrawReq <;> simp [interfaceEffect, State.pending, hr]; omega
  | snapTrigger => cases hr : s.snapReq <;> simp [interfaceEffect, State.pending, hr]
  | _ => exact Nat.le_add_right _ _

/-- An operation gives the lock back. -/
theorem State.LockFree.exec {i : Instr} {s t : State} (h : s.LockFree) (hexec : Machine.exec i s = .next t) :
    t.LockFree := by
  cases exec_agentWrites i s t hexec with
  | reset => exact ⟨h.1, rfl⟩
  | _ => exact h

/-- A scheduled event takes its place off the schedule and adds at most one request. -/
theorem step_scheduled {s : State} (h : s.LockFree) {e : Event} {es : List Event} (hs : s.sched = e :: es) :
    ∃ t, step s = .next t ∧ t.LockFree ∧ t.sched = es ∧ t.pending ≤ s.pending + 1 := by
  have hn : s.nextEvent = some (e, { s with sched := es }) := by rw [State.nextEvent, hs]
  cases hf : fetchEvent e { s with sched := es } with
  | none =>
    refine ⟨_, step_of_fetchEvent_none s e es h.1 hs hf, ?_, ?_, interfaceEffect_pending_le e _⟩ <;>
      rw [interfaceEffect_frame]
    exact h
  | some p =>
    obtain ⟨i, s2⟩ := p
    have hs2 := fetchEvent_frame e _ s2 i hf
    have hfree : s2.LockFree := by rw [hs2]; exact h
    obtain ⟨t, ht⟩ := exec_next i s2 hfree.1
    obtain ⟨⟨-, -, hsched, -⟩, -⟩ := accessRights i s2 t ht
    refine ⟨t, (step_of_fetchEvent hn hf).trans ht, hfree.exec ht, by rw [hsched, hs2], ?_⟩
    calc t.pending ≤ s2.pending := exec_pending_le ht
      _ ≤ s.pending := (fetched_of_fetchEvent hf).pending_le
      _ ≤ s.pending + 1 := Nat.le_add_right _ _

/-- A grant of the arbiter at the end of the schedule serves a request. -/
theorem step_granted {s : State} (h : s.LockFree) (hs : s.sched = [])
    (hwho : s.redrawReq = true ∨ s.snapReq = true ∨ (s.stopped = false ∧ s.rx ≠ [])) :
    ∃ t, step s = .next t ∧ t.LockFree ∧ t.sched = [] ∧ t.pending < s.pending := by
  obtain ⟨hreq, hstep⟩ | ⟨hreq, hstep⟩ | ⟨-, b, rest, hrx, hstep⟩ := idleArbiterGrantsAWaitingAgent s h hs hwho
  · refine ⟨_, hstep.trans (exec_redraw_free { s with grants := s.grants + 1 } h), h, hs, ?_⟩
    simp [State.pending, hreq]
  · refine ⟨_, hstep.trans (exec_snapshot_free { s with grants := s.grants + 1 } h), h, hs, ?_⟩
    simp [State.pending, hreq]
  · have hfree : State.LockFree { s with grants := s.grants + 1, rx := rest } := h
    obtain ⟨t, ht⟩ := exec_next (streamInstr s b) _ hfree.1
    obtain ⟨⟨-, -, hsched, -⟩, -⟩ := accessRights _ _ t ht
    refine ⟨t, hstep.trans ht, hfree.exec ht, hsched.trans hs, (exec_pending_le ht).trans_lt ?_⟩
    simp only [State.pending, hrx, List.length_cons]
    omega

/-- The end of the schedule with no agent waiting. -/
def State.Served (s : State) : Prop :=
  s.sched = [] ∧ s.own = .free ∧ s.redrawReq = false ∧ s.snapReq = false ∧ (s.stopped = true ∨ s.rx = [])

/-- While somebody waits or an event is scheduled, a step leaves less work. -/
theorem served_or_step_workLeft_lt {s : State} (h : s.LockFree) :
    s.Served ∨ ∃ t, step s = .next t ∧ t.LockFree ∧ t.workLeft < s.workLeft := by
  cases hs : s.sched with
  | cons e es =>
    obtain ⟨t, hstep, hfree, hsched, hpending⟩ := step_scheduled h hs
    refine .inr ⟨t, hstep, hfree, ?_⟩
    rw [State.workLeft, State.workLeft, hsched, hs, List.length_cons]
    omega
  | nil =>
    by_cases hwho : s.redrawReq = true ∨ s.snapReq = true ∨ (s.stopped = false ∧ s.rx ≠ [])
    · obtain ⟨t, hstep, hfree, hsched, hpending⟩ := step_granted h hs hwho
      refine .inr ⟨t, hstep, hfree, ?_⟩
      rw [State.workLeft, State.workLeft, hsched, hs]
      omega
    · simp only [not_or, not_and_or, Bool.not_eq_true, Bool.not_eq_false, not_not] at hwho
      exact .inl ⟨hs, h.2, hwho⟩

/-- A run serves everything within the work that is left. -/
theorem exists_run_served (n : Nat) (s : State) (h : s.LockFree) (hn : s.workLeft ≤ n) :
    ∃ k t, k ≤ n ∧ Sys2Proof.core.run k s = .next t ∧ t.Served := by
  induction n generalizing s with
  | zero =>
    obtain hdone | ⟨_, _, _, hlt⟩ := served_or_step_workLeft_lt h
    · exact ⟨0, s, le_refl _, rfl, hdone⟩
    · omega
  | succ n ih =>
    obtain hdone | ⟨u, hstep, hfree, hlt⟩ := served_or_step_workLeft_lt h
    · exact ⟨0, s, Nat.zero_le _, rfl, hdone⟩
    · obtain ⟨k, t, hk, hrun, hdone⟩ := ih u hfree (by omega)
      exact ⟨k + 1, t, Nat.succ_le_succ hk, (run_succ k s u hstep).trans hrun, hdone⟩

/-- Settles O57: `State.workLeft` falls with every step that is not yet served. -/
theorem everyRequestIsEventuallyServed : Obligations.EveryRequestIsEventuallyServed := by
  intro s h
  obtain ⟨k, t, hk, hrun, hdone⟩ := exists_run_served _ s h s.workLeft_le
  exact ⟨k, t, hk, hrun, hdone⟩

end Sys2Proof.Machine
end

section
/-! PROOFS. Encoding (30_encoding.md): the decoder and the encoder agree in both directions, the cases of a stream byte,
the row offset, operations out of their place, and the script line ROW. -/

namespace Sys2Proof.Laws.RoundTrip

/-- Every operation's encoding is read back. -/
theorem statement_all (i : Instr) : Statement i :=
  match i with
  | .sync1Hit => sync1Hit
  | .sync1Skip b => sync1Skip b
  | .sync2Hit => sync2Hit
  | .sync2Restart => sync2Restart
  | .sync2Drop b => sync2Drop b
  | .fillStore b => fillStore b
  | .fillCommit b => fillCommit b
  | .rowrec r payload => rowrec r payload
  | .cellExpand b => cellExpand b
  | .pxT0 => pxT0
  | .pxT85 => pxT85
  | .pxT170 => pxT170
  | .pxT255 => pxT255
  | .reset => reset
  | .redraw => redraw
  | .snapshot => snapshot
  | .stop => stop
  | .refreshReq => refreshReq
  | .txPlus => txPlus
  | .txM => txM
  | .txGt => txGt
  | .txLt => txLt
  | .txExit => txExit
  | .txStart => txStart

end Sys2Proof.Laws.RoundTrip

namespace Sys2Proof.Machine

/-! ### Decode and encode -/

/-- Settles O1: constructor by constructor, the bytes of the table are the ones the decoder looks for. -/
theorem decodeEncodeRoundTrip : Obligations.DecodeEncodeRoundTrip :=
  fun c i rest h => Laws.RoundTrip.statement_all i c rest h

/-- A stream byte is the whole encoding of what it is read as. -/
theorem encode_decodeStream (p : Phase) (b : Byte) : encode (decodeStream p b) = [b] := by
  cases p with
  | awaitingSync1 =>
    simp only [decodeStream]
    split_ifs with hA
    · rw [hA]; rfl
    · rfl
  | awaitingSync2 =>
    simp only [decodeStream]
    split_ifs with hB hA
    · rw [hB]; rfl
    · rw [hA]; rfl
    · rfl
  | filling => rfl
  | lastByte => rfl

/-- What a stream byte is read as is well formed: SKIP and DROP are read from the bytes they do not exclude. -/
theorem wf_decodeStream (c : Config) (p : Phase) (b : Byte) : (decodeStream p b).wf c = true := by
  cases p with
  | awaitingSync1 =>
    simp only [decodeStream]
    split_ifs with hA
    · rfl
    · simp [Instr.wf, hA]
  | awaitingSync2 =>
    simp only [decodeStream]
    split_ifs with hB hA
    · rfl
    · rfl
    · simp [Instr.wf, hA, hB]
  | filling => rfl
  | lastByte => rfl

theorem channelOf_decodeStream (p : Phase) (b : Byte) : channelOf (decodeStream p b) = .stream p :=
  channelOf_of_decode (bs := [b]) (rest := []) rfl

theorem encode_of_decodeRecord {n : Nat} {bs rest : List Byte} {i : Instr} (h : decodeRecord n bs = .ok (i, rest)) :
    bs = encode i ++ rest := by
  simp only [decodeRecord] at h
  split at h
  · split_ifs at h with hsync
    cases h
    simp [encode, hsync, syncA, syncB]
  · cases h

theorem encode_of_decodeTone {b : Byte} {i : Instr} (h : decodeTone b = .ok i) : encode i = [b] := by
  simp only [decodeTone] at h
  split_ifs at h with hb hb hb hb <;> cases h <;> rw [hb] <;> rfl

theorem encode_of_decodeUpstream {bs rest : List Byte} {i : Instr} (h : decodeUpstream bs = .ok (i, rest)) :
    bs = encode i ++ rest := by
  cases bs with
  | nil => cases h
  | cons b bs =>
    simp only [decodeUpstream] at h
    split_ifs at h with hb hb hb hb hb hb
    on_goal 6 =>
      cases bs with
      | nil => cases h
      | cons b2 bs =>
        simp only at h
        split_ifs at h with hb2
        cases h
        rw [hb, hb2]; rfl
    all_goals
      cases h
      rw [hb]; rfl

/-- The bytes the decoder consumed are the encoding of what it read. -/
theorem encode_of_decode {ch : Channel} {bs rest : List Byte} {i : Instr} (h : decode ch bs = .ok (i, rest)) :
    bs = encode i ++ rest := by
  cases ch with
  | stream p =>
    cases bs with
    | nil => cases h
    | cons b bs =>
      cases h
      rw [encode_decodeStream]; rfl
  | record n => exact encode_of_decodeRecord h
  | cell =>
    cases bs with
    | nil => cases h
    | cons b bs => cases h; rfl
  | tone =>
    cases bs with
    | nil => cases h
    | cons b bs =>
      simp only [decode] at h
      split at h
      · next ht => cases h; rw [encode_of_decodeTone ht]; rfl
      · cases h
  | wire w => cases w <;> cases h <;> rfl
  | upstream => exact encode_of_decodeUpstream h

/-- Only SKIP, DROP and a record have an operand condition. -/
theorem wf_of_channelOf (c : Config) (i : Instr) (hstream : ∀ p, channelOf i ≠ .stream p)
    (hrecord : ∀ n, channelOf i = .record n → n = c.N) : i.wf c = true := by
  cases i with
  | sync1Skip b => exact absurd rfl (hstream _)
  | sync2Drop b => exact absurd rfl (hstream _)
  | rowrec r payload => exact decide_eq_true (hrecord _ rfl)
  | _ => rfl

/-- What the decoder reads is well formed, where a record is read at the configuration's length. -/
theorem wf_of_decode {c : Config} {ch : Channel} {bs rest : List Byte} {i : Instr}
    (hn : ∀ n, ch = .record n → n = c.N) (h : decode ch bs = .ok (i, rest)) : i.wf c = true := by
  by_cases hstream : ∃ p, ch = .stream p
  · obtain ⟨p, rfl⟩ := hstream
    cases bs with
    | nil => cases h
    | cons b bs => cases h; exact wf_decodeStream c p b
  · rw [← channelOf_of_decode h] at hn hstream
    exact wf_of_channelOf c i (not_exists.mp hstream) hn

/-- Settles O2: channel by channel, the decoder answers only after it has seen the bytes of the table. -/
theorem decodedBytesAreTheEncoding : Obligations.DecodedBytesAreTheEncoding :=
  fun _ _ _ _ _ hn h => ⟨encode_of_decode h, channelOf_of_decode h, wf_of_decode hn h⟩

/-- Settles O3: each word is evaluated. -/
theorem specWordsDecode : Obligations.SpecWordsDecode :=
  ⟨rfl, rfl, rfl, rfl, rfl, rfl, rfl, rfl, rfl, rfl, rfl, rfl, rfl, rfl, rfl, rfl, rfl, rfl, rfl, rfl, rfl, rfl, rfl, rfl⟩

/-! ### The cases of a stream byte (R89) -/

theorem phase_filling (c : Config) {cnt : Nat} (h2 : 2 ≤ cnt) (hT : cnt + 1 ≠ c.T) : phase c cnt = .filling := by
  rw [phase, if_neg (by omega), if_neg (by omega), if_neg hT]

theorem phase_lastByte (c : Config) {cnt : Nat} (h2 : 2 ≤ cnt) (hT : cnt + 1 = c.T) : phase c cnt = .lastByte := by
  rw [phase, if_neg (by omega), if_neg (by omega), if_pos hT]

/-- Settles O4: the fill count gives the decoder state, and there the byte gives the case. -/
theorem streamByteClassification : Obligations.StreamByteClassification := by
  intro c cnt b hok hcnt
  obtain ⟨hT, hL, -⟩ := T_of_ok c hok
  refine ⟨?_, ?_, ?_, ?_, ?_, ?_, ?_⟩
  · rintro rfl rfl; rfl
  · rintro rfl hA; exact if_neg hA
  · rintro rfl rfl; rfl
  · rintro rfl rfl; rfl
  · rintro rfl hB hA
    exact (if_neg hB).trans (if_neg hA)
  · intro h2 hle
    rw [phase_filling c h2 (by omega)]; rfl
  · intro hlast
    rw [phase_lastByte c (by omega) (by omega)]; rfl

/-! ### The row offset (R86) -/

/-- Settles O5: the definition's test is the statement's negated, and `L` is positive, so that it is a test of `r`. -/
theorem rowOffsetAssembly : Obligations.RowOffsetAssembly := by
  intro c r hok
  obtain ⟨hL, hH, -, -⟩ := (Config_ok_iff c).mp hok
  constructor
  · simp only [rowOffset, maxOff, gt_iff_lt, ← not_le, ite_not]
  · rw [gt_iff_lt, Nat.mul_lt_mul_right hL]
    omega

/-! ### Operations out of their place (log entry 8) -/

/-- A case of BYTE at another case's fill count, or with another case's byte. -/
theorem exec_stream_outOfPlace (i : Instr) (p : Phase) (s : State) (hp : channelOf i = .stream p)
    (hout : phase s.cfg s.cnt ≠ p ∨ i.wf s.cfg = false) : exec i s = operate s fun s => s := by
  obtain ⟨b, rfl⟩ | h := exec_stream_cases i p s hp
  · rw [streamInstr, channelOf_decodeStream, Channel.stream.injEq] at hp
    rw [streamInstr, wf_decodeStream] at hout
    exact hout.elim (absurd hp) nofun
  · exact h

theorem exec_rowrec_outOfPlace (r : Byte) (payload : List Byte) (s : State)
    (hout : 2 ≤ s.cnt ∨ payload.length ≠ s.cfg.N) : exec (.rowrec r payload) s = operate s fun s => s := by
  refine operate_congr s (if_neg ?_)
  rintro ⟨hcnt, hlen⟩
  simp only [State.emit_cnt, State.emit_cfg] at hcnt hlen
  omega

/-- Settles O54: an operation in its place is the one its byte is there, and that one is well formed. -/
theorem operationsOutOfPlaceDoNothing : Obligations.OperationsOutOfPlaceDoNothing := by
  intro i s hok
  constructor
  · intro p hp hout
    rw [exec_stream_outOfPlace i p s hp hout, operate_ok s _ hok]; rfl
  · rintro r payload rfl hout
    rw [exec_rowrec_outOfPlace r payload s hout, operate_ok s _ hok]; rfl

/-! ### The script line ROW (R97, R98) -/

/-- The state with the events `es` to come and nothing emitted: where an operation starts once its event is taken. -/
def State.withSched (s : State) (es : List Event) : State := { s with sched := es, out := [] }

/-- BYTE does not look at the schedule or the outputs. -/
theorem byteBody_withSched (b : Byte) (s : State) (es : List Event) :
    byteBody b (s.withSched es) = (byteBody b s).withSched es := by
  obtain ⟨hc, rfl, hb⟩ | ⟨hc, rfl, hb⟩ | ⟨hc, hA, hB, hb⟩ | ⟨h2, hT, hb⟩ | ⟨h2, hT, hb⟩ := byteBody_cases b s
  · rw [hb, byteBody_syncA (s.withSched es) hc]; rfl
  · rw [hb, byteBody_sync2Hit (s.withSched es) hc]; rfl
  · rw [hb, byteBody_dropped b (s.withSched es) hc hA hB]; rfl
  · rw [hb, byteBody_fillStore b (s.withSched es) h2 hT]; rfl
  · rw [hb, byteBody_fillCommit b (s.withSched es) h2 hT]; rfl

section
variable {s : State} (h : s.Ready)
include h

theorem byteStep_withSched (b : Byte) (es : List Event) :
    byteStep b (s.withSched es) = (byteStep b s).withSched es := by
  obtain ⟨-, ho, hs⟩ := h
  rw [byteStep_ready b s ho hs, byteStep_ready b (s.withSched es) ho hs, byteBody_withSched]; rfl

/-- BYTE leaves a ready decoder ready. -/
theorem State.Ready.byteStep (b : Byte) : (Machine.byteStep b s).Ready := by
  obtain ⟨rb, cnt, fb, init, dirty, hb⟩ := byteStep_frame s b
  rw [hb]; exact h

/-- The lock granted to a ready decoder with a byte on offer accepts it (R171). -/
theorem fetchEvent_grantDec {b : Byte} {rest : List Byte} (hrx : s.rx = b :: rest) :
    fetchEvent .grantDec s = some (streamInstr s b, { s with rx := rest }) := by
  obtain ⟨-, ho, hs⟩ := h
  rw [fetchEvent, if_pos ((inReady_iff s).mpr ⟨hs, ho⟩), State.accept, hrx]; rfl

/-- One byte of a line RX: the step that offers it, and the one that accepts it. -/
theorem run_offer_grantDec {b : Byte} {es : List Event} (k : Nat) (hrx : s.rx = [])
    (hs : s.sched = .offer b :: .grantDec :: es) :
    Sys2Proof.core.run (k + 2) s = Sys2Proof.core.run k (byteStep b (s.withSched es)) := by
  have hoffer : step s = .next { s.withSched (.grantDec :: es) with rx := [b] } := by
    rw [step_of_fetchEvent_none s _ _ h.1 hs rfl, interfaceEffect, hrx]; rfl
  have hgrant : step { s.withSched (.grantDec :: es) with rx := [b] } = .next (byteStep b (s.withSched es)) := by
    have hfetch : fetchEvent .grantDec { s.withSched es with rx := [b] } = some (streamInstr s b, s.withSched es) := by
      rw [fetchEvent_grantDec (s := { s.withSched es with rx := [b] }) h rfl, State.withSched, ← hrx]; rfl
    rw [step_of_fetchEvent rfl hfetch]
    exact (exec_streamInstr (s.withSched es) b).trans (operate_ok (s.withSched es) _ h.1)
  rw [run_succ _ _ _ hoffer, run_succ _ _ _ hgrant]

end

/-- A line RX of at least one byte, run step by step, is its BYTEs one after another. -/
theorem run_rxEvents (b : Byte) (bs : List Byte) {s : State} (es : List Event) (h : s.Ready) (hrx : s.rx = [])
    (hs : s.sched = rxEvents (b :: bs) ++ es) :
    Sys2Proof.core.run (2 * (b :: bs).length) s =
      .next ((b :: bs).foldl (fun s b => byteStep b s) (s.withSched es)) := by
  induction bs generalizing b s with
  | nil => exact run_offer_grantDec h 0 hrx hs
  | cons b' bs ih =>
    have hrx' : (byteStep b s).rx = [] := by
      obtain ⟨rb, cnt, fb, init, dirty, hb⟩ := byteStep_frame s b
      rw [hb]; exact hrx
    calc Sys2Proof.core.run (2 * (b' :: bs).length + 2) s
      _ = Sys2Proof.core.run (2 * (b' :: bs).length) ((byteStep b s).withSched (rxEvents (b' :: bs) ++ es)) := by
        rw [run_offer_grantDec h _ hrx hs, byteStep_withSched h]; rfl
      _ = .next ((b' :: bs).foldl (fun s b => byteStep b s) ((byteStep b s).withSched es)) :=
        ih b' (h.byteStep b) hrx' rfl
      _ = .next ((b :: b' :: bs).foldl (fun s b => byteStep b s) (s.withSched es)) := by
        rw [← byteStep_withSched h]; rfl

/-- Settles O52: the line is the RX of the record's bytes, and ROWREC consumes the same bytes by BYTE. -/
theorem rowScriptLineRunsTheRecord : Obligations.RowScriptLineRunsTheRecord := by
  intro s r payload es hready hcnt hrx hlen hs
  have hT : s.cfg.T = (recordBytes r payload).length := by simp [Config.T, recordBytes, hlen]
  have hrow : exec (.rowrec r payload) { s with sched := es } =
      .next ((recordBytes r payload).foldl (fun s b => byteStep b s) (s.withSched es)) :=
    (operate_ok { s with sched := es } _ hready.1).trans (congrArg _ (if_pos ⟨hcnt, hlen⟩))
  rw [hrow, hT]
  exact run_rxEvents syncA (syncB :: r :: payload) es hready hrx hs

end Sys2Proof.Machine
end

section
/-! PROOFS. The look-up tables (40_lut.md): the coordinate table is a bijection, CELL_EXPAND answers the tones of its
byte, and a byte is read back from its four tones. -/

namespace Sys2Proof.Machine

/-! ### The coordinate table (R110) -/

/-- The cell `y * L + x` lies in column `x` of row `y`. -/
theorem xy_mul_add (c : Config) {x : Nat} (y : Nat) (hx : x < c.L) : xy c (y * c.L + x) = (x, y) := by
  have hsum : x + c.L * y = y * c.L + x := by rw [Nat.mul_comm, Nat.add_comm]
  obtain ⟨hdiv, hmod⟩ := (Nat.div_mod_unique (Nat.zero_lt_of_lt hx)).mpr ⟨hsum, hx⟩
  rw [xy, hdiv, hmod]

/-- Column and row of a cell give its index back. -/
theorem xy_inverse (c : Config) (i : Nat) : (xy c i).2 * c.L + (xy c i).1 = i := Nat.div_add_mod' i c.L

/-- The cells of the framebuffer are those whose row is a row of the grid. -/
theorem xy_row_lt_iff (c : Config) (i : Nat) (hL : 1 ≤ c.L) : (xy c i).2 < c.H ↔ i < c.P := by
  rw [xy, Nat.div_lt_iff_lt_mul hL, Config.P, Nat.mul_comm]

/-- Settles O6: division with remainder by `L` in one direction, and its uniqueness in the other. -/
theorem coordinateTableBijection : Obligations.CoordinateTableBijection := by
  intro c hok
  obtain ⟨hL, -⟩ := (Config_ok_iff c).mp hok
  constructor
  · intro i hi
    exact ⟨rfl, Nat.mod_lt i hL, (xy_row_lt_iff c i hL).mpr hi, xy_inverse c i⟩
  · intro x y hx hy
    have hxy := xy_mul_add c y hx
    exact ⟨(xy_row_lt_iff c _ hL).mp (by rwa [hxy]), hxy⟩

/-! ### The tone decomposition table (R111) -/

/-- The row of the table, as R111 computes it from the byte. -/
theorem td_eq (b : Byte) :
    td b = (BitVec.ofNat 8 (85 * ((b.toNat >>> 6) % 4)), BitVec.ofNat 8 (85 * ((b.toNat >>> 4) % 4)),
      BitVec.ofNat 8 (85 * ((b.toNat >>> 2) % 4)), BitVec.ofNat 8 (85 * (b.toNat % 4))) := by
  simp only [td, toneOf, group_toNat]; rfl

/-- CELL_EXPAND answers the row of the table. -/
theorem exec_cellExpand (b : Byte) (s : State) (hok : s.cfg.ok = true) :
    exec (.cellExpand b) s = .next { s with out := [.tones (td b).1 (td b).2.1 (td b).2.2.1 (td b).2.2.2] } := by
  rw [exec, execCellExpand, operate_ok s _ hok]; rfl

/-- Settles O7: the answer is the row of the table. -/
theorem cellExpandEffect : Obligations.CellExpandEffect := by
  intro s b hok
  rw [exec_cellExpand b s hok, td_eq]

/-! ### Reading a byte back from its tones (R113) -/

/-- The tones (R85, R113 (a)). -/
theorem toneOf_mem (c : Code) : toneOf c ∈ [0#8, 85#8, 170#8, 255#8] := by revert c; decide

/-- `code(t) = t div 85` reads a code back from its tone (R113 (b)). -/
theorem toneOf_toNat_div (c : Code) : (toneOf c).toNat / 85 = c.toNat := by
  rw [toneOf_toNat, Nat.mul_div_cancel_left _ (by decide)]

/-- A byte is its four groups, the most significant first (R84). -/
theorem groups_toNat (b : Byte) :
    64 * (group b 0).toNat + 16 * (group b 1).toNat + 4 * (group b 2).toNat + (group b 3).toNat = b.toNat := by
  have hb : b.toNat < 256 := b.isLt
  simp only [group_toNat, Nat.shiftRight_eq_div_pow]
  omega

/-- A byte of four equal groups is itself their tone (R111's corner cases). -/
theorem eq_toneOf_of_groups_eq {b : Byte} (h01 : group b 0 = group b 1) (h12 : group b 1 = group b 2)
    (h23 : group b 2 = group b 3) : b = toneOf (group b 3) := by
  have hb := groups_toNat b
  rw [h01, h12, h23] at hb
  apply BitVec.eq_of_toNat_eq
  rw [toneOf_toNat]
  omega

/-- A byte that is itself a tone decomposes into four copies of it (R111's corner cases). -/
theorem td_of_mem_tones {b : Byte} (h : b ∈ [0#8, 85#8, 170#8, 255#8]) : td b = (b, b, b, b) := by
  revert b; decide

/-- Settles O8: a tone is read back as its code, a byte from its groups; and four equal groups make the byte itself a
tone, which has four equal tones. -/
theorem toneTableRoundTrip : Obligations.ToneTableRoundTrip := by
  intro b
  refine ⟨?_, ?_, ?_, ?_⟩
  · simp only [td, List.forall_mem_cons]
    exact ⟨toneOf_mem _, toneOf_mem _, toneOf_mem _, toneOf_mem _, nofun⟩
  · simp only [td, toneOf_toNat_div]
    exact groups_toNat b
  · rintro ⟨h01, h12, h23⟩
    rw [eq_toneOf_of_groups_eq ((toneOf_inj _ _).mp h01) ((toneOf_inj _ _).mp h12) ((toneOf_inj _ _).mp h23)]
    exact toneOf_mem _
  · intro hb
    rw [td_of_mem_tones hb]
    exact ⟨rfl, rfl, rfl⟩

end Sys2Proof.Machine
end

section
/-! PROOFS. The frame decoder (41_decoder.md): the seven cases of BYTE and the one function they are, the commit of a
row, the whole record, and the runs of bytes around it. -/

namespace Sys2Proof.Machine

/-! ### Which operation a byte is (R89) -/

section
variable (s : State) (b : Byte)

theorem streamInstr_sync1Hit (h : s.cnt = 0) : streamInstr s syncA = .sync1Hit := by
  rw [streamInstr, h]; rfl

theorem streamInstr_sync1Skip (h : s.cnt = 0) (hA : b ≠ syncA) : streamInstr s b = .sync1Skip b := by
  rw [streamInstr, h]; exact if_neg hA

theorem streamInstr_sync2Hit (h : s.cnt = 1) : streamInstr s syncB = .sync2Hit := by
  rw [streamInstr, h]; rfl

theorem streamInstr_sync2Restart (h : s.cnt = 1) : streamInstr s syncA = .sync2Restart := by
  rw [streamInstr, h]; rfl

theorem streamInstr_sync2Drop (h : s.cnt = 1) (hA : b ≠ syncA) (hB : b ≠ syncB) :
    streamInstr s b = .sync2Drop b := by
  rw [streamInstr, h]; exact (if_neg hB).trans (if_neg hA)

theorem streamInstr_fillStore (h2 : 2 ≤ s.cnt) (hT : s.cnt + 1 ≠ s.cfg.T) : streamInstr s b = .fillStore b := by
  rw [streamInstr, phase_filling s.cfg h2 hT]; rfl

end

/-! ### The seven cases of BYTE (R121 to R127) -/

/-- A case of BYTE in its place is what R120's function does there, with `dirty` set. -/
theorem exec_of_streamInstr {s t : State} {b : Byte} {i : Instr} (h : s.Ready) (hi : streamInstr s b = i)
    (hb : byteBody b (s.emit []) = t) : exec i s = .next t.markDirty := by
  rw [← hi, exec_streamInstr_ready s b h, hb]

/-- Settles O9: SYNC_A at `cnt = 0`, and at `cnt = 1` the same after `cnt` is cleared. -/
theorem sync1HitEffect : Obligations.Sync1HitEffect := by
  intro s h
  have hit : ∀ u : State, u.Ready → u.cnt = 0 →
      exec .sync1Hit u = .next (((u.emit []).storeSlot 0 syncA).setCnt 1).markDirty := fun u hu h0 =>
    exec_of_streamInstr hu (streamInstr_sync1Hit u h0) (byteBody_sync1Hit (u.emit []) h0)
  refine ⟨hit s h, fun h1 => ?_⟩
  rw [hit { s with cnt := 0 } h rfl]
  exact exec_of_streamInstr h (streamInstr_sync2Restart s h1) (byteBody_sync2Restart (s.emit []) h1)

/-- Settles O10: at `cnt = 0` any byte but SYNC_A leaves what BYTE writes. -/
theorem sync1SkipEffect : Obligations.Sync1SkipEffect := fun s b h h0 hA =>
  exec_of_streamInstr h (streamInstr_sync1Skip s b h0 hA) (byteBody_sync1Skip b (s.emit []) h0 hA)

/-- Settles O11: SYNC_B at `cnt = 1`. -/
theorem sync2HitEffect : Obligations.Sync2HitEffect := fun s h h1 =>
  exec_of_streamInstr h (streamInstr_sync2Hit s h1) (byteBody_sync2Hit (s.emit []) h1)

/-- Settles O13: any other byte at `cnt = 1` clears `cnt`, and then it is one SYNC1_SKIP skips. -/
theorem sync2DropEffect : Obligations.Sync2DropEffect := by
  intro s b h h1 hB hA
  have hdrop : exec (.sync2Drop b) s = .next { s with cnt := 0, dirty := true, out := [] } :=
    exec_of_streamInstr h (streamInstr_sync2Drop s b h1 hA hB) (byteBody_sync2Drop b (s.emit []) h1 hA hB)
  exact ⟨hdrop, hdrop.trans (sync1SkipEffect { s with cnt := 0 } b h rfl hA).symm⟩

/-- Settles O14: before the last byte of a record, whatever the byte. -/
theorem fillStoreEffect : Obligations.FillStoreEffect := by
  intro s b h h2 hle
  obtain ⟨hT, hL, -⟩ := T_of_ok s.cfg h.1
  have hne : s.cnt + 1 ≠ s.cfg.T := by omega
  exact ⟨exec_of_streamInstr h (streamInstr_fillStore s b h2 hne) (byteBody_fillStore b (s.emit []) h2 hne),
    fun hL1 => by omega⟩

/-! ### The commit (R127, R131) -/

/-- FILL_COMMIT at the last byte of a record stores the byte and commits the row. -/
theorem exec_fillCommit_ready (s : State) (b : Byte) (h : s.Ready) (hcnt : s.cnt = s.cfg.T - 1) :
    exec (.fillCommit b) s = .next ((s.emit []).storeSlot s.cnt b).commitRow.markDirty := by
  obtain ⟨hT, hL, -⟩ := T_of_ok s.cfg h.1
  have h2 : 2 ≤ s.cnt := by omega
  have hlast : s.cnt + 1 = s.cfg.T := by omega
  exact exec_of_streamInstr h (streamInstr_lastByte s b h2 hlast) (byteBody_fillCommit b (s.emit []) h2 hlast)

/-- Settles O15: the row offset written out. -/
theorem fillCommitEffect : Obligations.FillCommitEffect := by
  intro s b h hcnt
  rw [exec_fillCommit_ready s b h hcnt, ← hcnt]; rfl

/-- Settles O16: the last byte goes to a slot past 2, so that the row is that of the index already held there, and the
slot is that of the last payload byte. -/
theorem fillCommitFrame : Obligations.FillCommitFrame := by
  intro s b h hcnt
  refine ⟨_, exec_fillCommit_ready s b h hcnt, ?_⟩
  obtain ⟨hT, hL, hN⟩ := T_of_ok s.cfg h.1
  have hslot : ∀ k, rbAt ((s.emit []).storeSlot s.cnt b) k = if k = s.cnt then b else rbAt s k :=
    fun k => rbAt_storeSlot (s.emit []) s.cnt k b
  have hindex : rbAt ((s.emit []).storeSlot s.cnt b) 2 = rbAt s 2 := by rw [hslot, if_neg (by omega)]
  refine ⟨fun j hj => ?_, fun a ha => ?_, rfl, rfl, rfl, rfl, rfl, rfl, rfl, rfl, rfl, rfl⟩
  · have hlast : 3 + j = s.cnt ↔ j = s.cfg.N - 1 := by omega
    rw [fbAt_markDirty, fbAt_commitRow, hindex, State.storeSlot_cfg, State.emit_cfg, if_pos (by omega),
      Nat.add_sub_cancel_left, hslot, if_congr hlast rfl rfl]
  · rw [fbAt_markDirty, fbAt_commitRow, hindex, State.storeSlot_cfg, State.emit_cfg, if_neg (by omega),
      fbAt_storeSlot, fbAt_emit]

/-- Settles O17: the offset of an index past the rows is 0, and a row at any offset ends inside the framebuffer. -/
theorem clampProperty : Obligations.ClampProperty := by
  intro s b h hcnt
  obtain ⟨t, hexec, hin, hout, -⟩ := fillCommitFrame s b h hcnt
  obtain ⟨-, -, hN⟩ := T_of_ok s.cfg h.1
  refine ⟨t, hexec, fun hr => ?_, fun a ha => hout a (.inr ?_)⟩
  · have hoff : rowOffset s.cfg (rbAt s 2) = 0 := by rw [rowOffset_eq s.cfg _ h.1, if_neg (by omega)]
    simp only [hoff, hN, Nat.zero_add] at hin hout
    exact ⟨hin, fun a ha => hout a (.inr ha)⟩
  · exact (rowOffset_add_le s.cfg _ h.1).trans ha

/-! ### The one function (R120, R136) -/

/-- BYTE does not look at the outputs of the step before. -/
theorem byteBody_emit (b : Byte) (s : State) : byteBody b (s.emit []) = (byteBody b s).emit [] := by
  have hsched : (byteBody b s).sched = s.sched := by rw [byteBody_frame]
  calc byteBody b (s.emit [])
    _ = (byteBody b s).withSched s.sched := byteBody_withSched b s s.sched
    _ = (byteBody b s).emit [] := by rw [← hsched]; rfl

/-- Settles O18: whichever of the seven a byte is, it is R120's function with `dirty` set. -/
theorem sevenCasesAreTheByteFunction : Obligations.SevenCasesAreTheByteFunction := by
  intro s b h
  rw [exec_streamInstr_ready s b h, byteBody_emit]; rfl

/-- Settles O19: the count of each case of R120's function. -/
theorem fillCountTransitions : Obligations.FillCountTransitions := by
  intro s b h hlt
  obtain ⟨hT, hL, -⟩ := T_of_ok s.cfg h.1
  refine ⟨_, sevenCasesAreTheByteFunction s b h, ?_, ?_, ?_, ?_, ?_, ?_, ?_⟩
  · rintro h0 rfl; exact congrArg State.cnt (byteBody_sync1Hit s h0)
  · intro h0 hA; exact (congrArg State.cnt (byteBody_sync1Skip b s h0 hA)).trans h0
  · rintro h1 rfl; exact congrArg State.cnt (byteBody_sync2Hit s h1)
  · rintro h1 rfl; exact congrArg State.cnt (byteBody_sync2Restart s h1)
  · intro h1 hB hA; exact congrArg State.cnt (byteBody_sync2Drop b s h1 hA hB)
  · intro h2 hle; exact congrArg State.cnt (byteBody_fillStore b s h2 (by omega))
  · intro hlast; exact congrArg State.cnt (byteBody_fillCommit b s (by omega) (by omega))

/-! ### Runs of bytes -/

/-- A run of at least one byte is its atomic BYTEs one after another, the first of which ends what the step before
emitted. -/
theorem byteRun_cons (b : Byte) (bs : List Byte) (s : State) (hok : s.cfg.ok = true) :
    byteRun (b :: bs) s = .next ((b :: bs).foldl (fun s b => byteStep b s) (s.emit [])) := by
  induction bs generalizing b s with
  | nil => rw [byteRun, exec_streamInstr, operate_ok s _ hok]; rfl
  | cons b' rest ih =>
    obtain ⟨rb, cnt, fb, init, dirty, hb⟩ := byteStep_frame (s.emit []) b
    have hcfg : (byteStep b (s.emit [])).cfg.ok = true := by rw [hb]; exact hok
    have hout : (byteStep b (s.emit [])).emit [] = byteStep b (s.emit []) := by rw [hb]; rfl
    rw [byteRun, exec_streamInstr, operate_ok s _ hok]
    exact (ih b' (byteStep b (s.emit [])) hcfg).trans (by rw [hout]; rfl)

/-- A run of any length is its atomic BYTEs, but for what was emitted before it. -/
theorem byteRun_eq_foldl (bs : List Byte) (s : State) (hok : s.cfg.ok = true) :
    ∃ os, byteRun bs s = .next (bs.foldl (fun s b => byteStep b s) (s.emit os)) := by
  cases bs with
  | nil => exact ⟨s.out, rfl⟩
  | cons b rest => exact ⟨[], byteRun_cons b rest s hok⟩

/-! ### Runs around the sync bytes (R124, R130) -/

section
variable {s : State} (h : s.Ready)
include h

theorem byteStep_syncA (hc : s.cnt ≤ 1) : byteStep syncA s = ((s.storeSlot 0 syncA).setCnt 1).markDirty := by
  obtain ⟨-, ho, hs⟩ := h
  rw [byteStep_ready syncA s ho hs, byteBody_syncA s hc]

theorem byteStep_syncB_cnt (hc : s.cnt = 1) : (byteStep syncB s).cnt = 2 := by
  obtain ⟨-, ho, hs⟩ := h
  rw [byteStep_ready syncB s ho hs, byteBody_sync2Hit s hc]; rfl

theorem byteStep_syncA_cnt (hc : s.cnt ≤ 1) : (byteStep syncA s).cnt = 1 := by
  rw [byteStep_syncA h hc]; rfl

/-- A second SYNC_A rewrites what the first has left (R124). -/
theorem byteStep_syncA_twice (hc : s.cnt ≤ 1) : byteStep syncA (byteStep syncA s) = byteStep syncA s := by
  rw [byteStep_syncA (h.byteStep syncA) (byteStep_syncA_cnt h hc).le, byteStep_syncA h hc]
  simp [State.storeSlot, State.setCnt, State.markDirty]

end

/-- A run of SYNC_A of any length keeps the decoder ready at `cnt = 1`. -/
theorem foldl_replicate_syncA (n : Nat) (s : State) (h : s.Ready) (hc : s.cnt = 1) :
    ((List.replicate n syncA).foldl (fun s b => byteStep b s) s).Ready ∧
    ((List.replicate n syncA).foldl (fun s b => byteStep b s) s).cnt = 1 := by
  induction n generalizing s with
  | zero => exact ⟨h, hc⟩
  | succ n ih => exact ih (byteStep syncA s) (h.byteStep syncA) (byteStep_syncA_cnt h hc.le)

/-- Settles O12: by induction on the run, each SYNC_A of which leaves `cnt = 1`. -/
theorem sync2RestartEffect : Obligations.Sync2RestartEffect := by
  intro s h h1
  refine ⟨?_, fun n => ?_, fun n => ?_⟩
  · exact exec_of_streamInstr h (streamInstr_sync2Restart s h1) (byteBody_sync2Restart (s.emit []) h1)
  · obtain ⟨os, hrun⟩ := byteRun_eq_foldl (List.replicate n syncA) s h.1
    exact ⟨_, hrun, (foldl_replicate_syncA n (s.emit os) h h1).2⟩
  · obtain ⟨os, hrun⟩ := byteRun_eq_foldl (List.replicate n syncA ++ [syncB]) s h.1
    obtain ⟨hready, hcnt⟩ := foldl_replicate_syncA n (s.emit os) h h1
    rw [List.foldl_append] at hrun
    exact ⟨_, hrun, byteStep_syncB_cnt hready hcnt⟩

/-! ### The whole record (R129, R130) -/

/-- The state a record leaves: its bytes in the slots from 0 on, the row committed, `dirty` set (R129). -/
def State.afterRecord (s : State) (r : Byte) (payload : List Byte) : State :=
  (State.commitRow { s.emit [] with rb := Memory.writeRow s.rb 0 (recordBytes r payload) }).markDirty

/-- The slots read as the record's bytes, any past them as before. -/
theorem rbAt_afterRecord (s : State) (r : Byte) (payload : List Byte) (k : Nat) :
    rbAt (s.afterRecord r payload) k = ((recordBytes r payload)[k]?).getD (rbAt s k) := by
  rw [State.afterRecord, rbAt_markDirty, rbAt_commitRow]
  simp only [rbAt, lookup_writeRow, Nat.zero_le, true_and, Nat.zero_add, Nat.sub_zero]
  split_ifs with hk
  · simp [hk]
  · simp [Nat.le_of_not_lt hk]

section
variable (s : State) (r : Byte) (payload : List Byte) (h : s.Ready) (hc : s.cnt ≤ 1)
  (hlen : payload.length = s.cfg.N)
include h hc hlen

/-- ROWREC in its place is the atomic BYTEs of the record's bytes. -/
theorem exec_rowrec_foldl : exec (.rowrec r payload) s =
    .next ((recordBytes r payload).foldl (fun s b => byteStep b s) (s.emit [])) :=
  (operate_ok s _ h.1).trans (congrArg _ (if_pos ⟨hc, hlen⟩))

theorem exec_rowrec_ready : exec (.rowrec r payload) s = .next (s.afterRecord r payload) := by
  rw [exec_rowrec_foldl s r payload h hc hlen]
  exact congrArg _ (foldl_byteStep_record r payload (s.emit []) h.2.1 h.2.2 hc hlen)

end

/-- Settles O21: both are the record's atomic BYTEs one after another. -/
theorem recordIsItsBytes : Obligations.RecordIsItsBytes := by
  intro s r payload h hc hlen
  rw [exec_rowrec_foldl s r payload h hc hlen]
  exact (byteRun_cons syncA (syncB :: r :: payload) s h.1).symm

/-- Settles O22: the second SYNC_A leaves the state the first has left. -/
theorem doubledSyncByte : Obligations.DoubledSyncByte := by
  intro s r payload h h0 hlen
  have hc : s.cnt ≤ 1 := by omega
  have hA : (s.emit []).Ready := h
  have htwice := byteStep_syncA_twice hA hc
  have hcnt := byteStep_syncA_cnt hA hc
  refine ⟨?_, ⟨_, byteRun_cons syncA [] s h.1, hcnt⟩, ⟨_, byteRun_cons syncA [syncA] s h.1, ?_⟩,
    ⟨_, byteRun_cons syncA [syncA, syncB] s h.1, ?_⟩⟩
  · rw [exec_rowrec_foldl s r payload h hc hlen]
    refine (byteRun_cons syncA (syncA :: syncB :: r :: payload) s h.1).trans ?_
    simp only [recordBytes, List.foldl_cons, htwice]
  · exact (congrArg State.cnt htwice).trans hcnt
  · simp only [List.foldl_cons, List.foldl_nil, htwice]
    exact byteStep_syncB_cnt (hA.byteStep syncA) hcnt

/-- Settles O20: the slots hold the record's bytes, and the commit writes the whole row of the index in slot 2. -/
theorem recordTheorem : Obligations.RecordTheorem := by
  intro s r payload h hc hlen row
  obtain ⟨hT, -, hN⟩ := T_of_ok s.cfg h.1
  have hlenT : (recordBytes r payload).length = s.cfg.T := by simp [recordBytes, Config.T, hlen]
  have hslot : ∀ k, k < s.cfg.T → some (rbAt (s.afterRecord r payload) k) = (recordBytes r payload)[k]? := by
    intro k hk
    rw [rbAt_afterRecord, List.getElem?_eq_getElem (by omega), Option.getD_some]
  have hrow : committedRow (s.afterRecord r payload) = row := by rw [committedRow, rbAt_afterRecord]; rfl
  have hcommit : CommitsRow s (s.afterRecord r payload) :=
    ⟨{ s.emit [] with rb := Memory.writeRow s.rb 0 (recordBytes r payload) }, rfl, rfl, rfl, rfl⟩
  obtain ⟨hin, hout, hinit, hcnt⟩ := hcommit.writesWholeRow h.1
  rw [hrow] at hin hout
  refine ⟨_, exec_rowrec_ready s r payload h hc hlen, fun j hj => ?_, hout, hslot, fun k hk => ?_, hcnt, hinit, rfl,
    rfl, rfl, rfl, rfl, rfl, rfl, rfl, rfl, rfl, rfl, rfl⟩
  · calc some (fbAt (s.afterRecord r payload) (row * s.cfg.L + j))
      _ = some (rbAt (s.afterRecord r payload) (3 + j)) := congrArg some (hin j hj)
      _ = (recordBytes r payload)[3 + j]? := hslot (3 + j) (by omega)
      _ = payload[j]? := by rw [Nat.add_comm]; rfl
  · rw [rbAt_afterRecord, List.getElem?_eq_none (by omega), Option.getD_none]

/-! ### Back to the start of a record (R132) -/

/-- Settles O23: past the sync bytes, the bytes that are left of the record are stored and end in its commit. -/
theorem resynchronisation : Obligations.Resynchronisation := by
  intro s bs h hlt hlen
  by_cases hc : s.cnt ≤ 1
  · exact ⟨0, s, Nat.zero_le _, rfl, hc⟩
  · have hleft : (bs.take (s.cfg.T - s.cnt)).length = s.cfg.T - s.cnt := by
      rw [List.length_take]; omega
    obtain ⟨os, hrun⟩ := byteRun_eq_foldl (bs.take (s.cfg.T - s.cnt)) s h.1
    rw [foldl_byteStep_fill _ (s.emit os) h.2.1 h.2.2 (by rw [State.emit_cnt]; omega)
      (List.ne_nil_of_length_pos (by omega)) (by rw [State.emit_cnt, State.emit_cfg]; omega)] at hrun
    exact ⟨_, _, by omega, hrun, Nat.zero_le 1⟩

/-! ### The hints and the readers between bytes (R133) -/

/-- The elements BYTE reads or writes, but for `dirty`, which it only sets. -/
def State.decoderView (s : State) : State :=
  { State.resetWith s.cfg with
    rb := s.rb, cnt := s.cnt, init := s.init, fb := s.fb, own := s.own, stopped := s.stopped, resets := s.resets }

/-- What BYTE does to these elements depends on them alone. -/
theorem byteBody_decoderView (b : Byte) (s : State) :
    byteBody b s.decoderView = (byteBody b s).decoderView := by
  obtain ⟨hc, rfl, hb⟩ | ⟨hc, rfl, hb⟩ | ⟨hc, hA, hB, hb⟩ | ⟨h2, hT, hb⟩ | ⟨h2, hT, hb⟩ := byteBody_cases b s
  · rw [hb, byteBody_syncA s.decoderView hc]; rfl
  · rw [hb, byteBody_sync2Hit s.decoderView hc]; rfl
  · rw [hb, byteBody_dropped b s.decoderView hc hA hB]; rfl
  · rw [hb, byteBody_fillStore b s.decoderView h2 hT]; rfl
  · rw [hb, byteBody_fillCommit b s.decoderView h2 hT]; rfl

theorem byteStep_decoderView (b : Byte) (s : State) (h : s.Ready) :
    (byteStep b s).decoderView = byteBody b s.decoderView := by
  rw [byteStep_ready b s h.2.1 h.2.2, byteBody_decoderView]; rfl

/-- Two ready states that agree in what BYTE reads agree after the same bytes. -/
theorem foldl_byteStep_decoderView (bs : List Byte) (s s' : State) (h : s.Ready) (h' : s'.Ready)
    (hview : s.decoderView = s'.decoderView) :
    (bs.foldl (fun s b => byteStep b s) s).decoderView = (bs.foldl (fun s b => byteStep b s) s').decoderView := by
  induction bs generalizing s s' with
  | nil => exact hview
  | cons b rest ih =>
    refine ih _ _ (h.byteStep b) (h'.byteStep b) ?_
    rw [byteStep_decoderView b s h, byteStep_decoderView b s' h', hview]

/-- A hint or a reader leaves what BYTE reads. -/
theorem decoderView_of_reader {i : Instr} {s u : State} (hi : i = .refreshReq ∨ i = .redraw ∨ i = .snapshot)
    (h : exec i s = .next u) : u.decoderView = s.decoderView := by
  obtain rfl | rfl | rfl := hi
  · obtain ⟨_, _, rfl⟩ := refreshReq_frame s u h; rfl
  · obtain ⟨_, _, _, -, rfl⟩ := redraw_frame s u h; rfl
  · obtain ⟨_, _, rfl⟩ := snapshot_frame s u h; rfl

/-- Being ready is seen in the view. -/
theorem ready_decoderView (s : State) : s.decoderView.Ready ↔ s.Ready := Iff.rfl

/-- Settles O53: BYTE reads nothing that a hint or a reader writes. -/
theorem readersAndDrainsDoNotDisturbTheDecoder : Obligations.ReadersAndDrainsDoNotDisturbTheDecoder := by
  intro s i bs h hi
  obtain ⟨u, hu⟩ := exec_next i s h.1
  have hview := decoderView_of_reader hi hu
  have hready : u.Ready := by rwa [← ready_decoderView, hview, ready_decoderView]
  obtain ⟨os, hrun⟩ := byteRun_eq_foldl bs s h.1
  obtain ⟨os', hrun'⟩ := byteRun_eq_foldl bs u hready.1
  have hsame := foldl_byteStep_decoderView bs (u.emit os') (s.emit os) hready h hview
  exact ⟨u, _, _, hu, hrun, hrun', (congrArg State.fb hsame :), (congrArg State.rb hsame :),
    (congrArg State.cnt hsame :), (congrArg State.init hsame :), (congrArg State.resets hsame :)⟩

end Sys2Proof.Machine
end

section
/-! PROOFS. The renderer (42_renderer.md): the plane of a pass as one list of beats, beat by beat; its value at a pixel,
the duty cycle over three redraws, and who advances the alternation counter. -/

namespace Sys2Proof.Machine

/-! ### The lit predicate (R144) -/

/-- The lit predicate read on the code of a tone, as a number. -/
theorem lit_code (c : Code) (a : Nat) :
    lit (toneOf c) a = (c.toNat == 0 || (c.toNat == 1 && a != 0) || (c.toNat == 2 && a == 0)) := by
  have hcode : ∀ d : Code, (c == d) = (c.toNat == d.toNat) := fun d => by
    rw [Bool.eq_iff_iff, beq_iff_eq, beq_iff_eq, BitVec.toNat_inj]
  rw [lit_toneOf, hcode, hcode, hcode]
  rfl

/-- The lit predicate read on the tone itself, as a number: the tones are 85 apart (R85). -/
theorem lit_tone (c : Code) (a : Nat) :
    lit (toneOf c) a =
      (85 * c.toNat == 0 || (85 * c.toNat == 85 && a != 0) || (85 * c.toNat == 170 && a == 0)) := by
  have htone : ∀ n, (c.toNat == n) = (85 * c.toNat == 85 * n) := fun n => by
    rw [Bool.eq_iff_iff, beq_iff_eq, beq_iff_eq, Nat.mul_right_inj (by decide)]
  rw [lit_code, htone 0, htone 1, htone 2]

/-- A PX row answers the tone of its code and whether that is lit. -/
theorem operate_pixelOf (c : Code) (s : State) (h : s.LockFree) :
    operate s (pixelOf c) = .next { s with out := [.pixel (toneOf c) (lit (toneOf c) s.alt)] } := by
  obtain ⟨hok, ho⟩ := h
  rw [operate_ok s _ hok, pixelOf, underLock_free .ren (s.emit []) _ ho, State.setOwn, ← ho]
  rfl

/-- Settles O28: each row is the one look-up at its own code. -/
theorem litPredicate : Obligations.LitPredicate := by
  intro s h
  have row : ∀ (i : Instr) (c : Code) (b : Bool), exec i s = operate s (pixelOf c) → lit (toneOf c) s.alt = b →
      exec i s = .next { s with out := [.pixel (toneOf c) b] } :=
    fun i c b hi hb => by rw [hi, operate_pixelOf c s h, hb]
  exact ⟨row .pxT0 0#2 _ rfl rfl, row .pxT85 1#2 _ rfl (by simp [lit_code, bne, beq_eq_decide]),
    row .pxT170 2#2 _ rfl (by simp [lit_code, beq_eq_decide]), row .pxT255 3#2 _ rfl rfl⟩

/-! ### The plane of a pass -/

/-- `MemReadAll()` with the index of each cell. -/
theorem zipIdx_memReadAll (s : State) : (memReadAll s).zipIdx = (List.range s.cfg.P).map fun i => (fbAt s i, i) :=
  List.ext_getElem (by simp [length_memReadAll]) fun i _ _ => by simp [getElem_memReadAll]

/-- A pass goes over the cells in ascending order (R140 step 2). -/
theorem plane_memReadAll (s : State) :
    plane s.cfg s.alt (memReadAll s) =
      (List.range s.cfg.P).flatMap fun i => cellPixels s.cfg s.alt (fbAt s i) i := by
  rw [plane, zipIdx_memReadAll, List.flatMap_map]

/-- Settles O25: the pass under a free lock, cell by cell and tone by tone. -/
theorem redrawEffect : Obligations.RedrawEffect := by
  intro s h
  refine ⟨false, ?_⟩
  rw [exec_redraw_free s h, plane_memReadAll]
  simp only [cellPixels_eq, lit_tone, group_toNat, altNext]

/-- Rows of `m`, one after another, are one list counted through. -/
theorem flatMap_range_map_range {α : Type} (n m : Nat) (f : Nat → Nat → α) :
    ((List.range n).flatMap fun i => (List.range m).map (f i)) =
      (List.range (m * n)).map fun k => f (k / m) (k % m) := by
  induction n with
  | zero => rfl
  | succ n ih =>
    rw [List.range_succ, List.flatMap_append, ih, Nat.mul_succ, List.range_add, List.map_append, List.map_map,
      List.flatMap_singleton]
    congr 1
    refine List.map_congr_left fun k hk => ?_
    have hk : k < m := List.mem_range.mp hk
    rw [Function.comp_apply, Nat.mul_add_div (by omega), Nat.mul_add_mod, Nat.div_eq_of_lt hk, Nat.mod_eq_of_lt hk,
      Nat.add_zero]

/-- The `n`-th beat of a pass: the pixels counted row by row (R146), each with the group of its cell (R147). -/
def passBeat (s : State) (n : Nat) : Pixel where
  x := n % s.cfg.XW
  y := n / s.cfg.XW
  lit := lit (toneOf (group (fbAt s (n / 4)) (n % 4))) s.alt

/-- The plane of a pass is its beats: pixel `n` is group `n % 4` of cell `n / 4`. -/
theorem plane_eq_beats (s : State) :
    plane s.cfg s.alt (memReadAll s) = (List.range (s.cfg.XW * s.cfg.YH)).map (passBeat s) := by
  have hlen : s.cfg.XW * s.cfg.YH = 4 * s.cfg.P := Nat.mul_assoc ..
  simp only [plane_memReadAll, cellPixels_eq, flatMap_range_map_range, hlen]
  refine List.map_congr_left fun n _ => ?_
  rw [passBeat, Config.XW, Nat.mod_mul, Nat.div_div_eq_div_mul, Nat.add_comm]

/-- Settles O27: beat `n` is the `n`-th pixel of the plane. -/
theorem planeCompleteInOrder : Obligations.PlaneCompleteInOrder := by
  intro s h
  refine ⟨_, _, _, _, exec_redraw_free s h, rfl, ?_⟩
  rw [plane_eq_beats, List.map_map]
  rfl

/-! ### The value at a pixel (R147) -/

/-- The tone code of display pixel `(X, Y)`: group `X % 4` of cell `Y * L + X / 4`. -/
def codeAt (s : State) (X Y : Nat) : Code := group (fbAt s (Y * s.cfg.L + X / 4)) (X % 4)

theorem codeAt_toNat (s : State) (X Y : Nat) :
    (codeAt s X Y).toNat = ((fbAt s (Y * s.cfg.L + X / 4)).toNat >>> (6 - 2 * (X % 4))) % 4 := group_toNat ..

theorem passBeat_lit (s : State) (X Y : Nat) :
    (passBeat s (s.cfg.XW * Y + X)).lit = lit (toneOf (codeAt s X Y)) s.alt := by
  have hn : s.cfg.XW * Y + X = 4 * (Y * s.cfg.L) + X := by rw [Config.XW, Nat.mul_assoc, Nat.mul_comm Y]
  rw [passBeat, codeAt, hn, Nat.mul_add_div (by decide), Nat.mul_add_mod]

section
variable (s : State) {X Y : Nat} (hX : X < s.cfg.XW)
include hX

/-- The beat at `(X, Y)` is that of index `XW * Y + X`, and no other. -/
theorem passBeat_at_iff (n : Nat) :
    (passBeat s n).x = X ∧ (passBeat s n).y = Y ↔ n = s.cfg.XW * Y + X := by
  have h := Nat.div_mod_unique (a := n) (d := Y) (c := X) (Nat.zero_lt_of_lt hX)
  simp only [passBeat]
  omega

/-- The value of a display pixel in a pass is that of its code under the sampled counter. -/
theorem planeAt_plane (hY : Y < s.cfg.YH) :
    planeAt (plane s.cfg s.alt (memReadAll s)) X Y = some (lit (toneOf (codeAt s X Y)) s.alt) := by
  have hlt : s.cfg.XW * Y + X < s.cfg.XW * s.cfg.YH :=
    calc s.cfg.XW * Y + X < s.cfg.XW * (Y + 1) := by rw [Nat.mul_succ]; omega
      _ ≤ s.cfg.XW * s.cfg.YH := Nat.mul_le_mul_left _ hY
  have hfind : (List.range (s.cfg.XW * s.cfg.YH)).find?
      ((fun p : Pixel => p.x == X && p.y == Y) ∘ passBeat s) = some (s.cfg.XW * Y + X) := by
    rw [List.find?_range_eq_some]
    simp only [Function.comp_apply, Bool.and_eq_true, beq_iff_eq, Bool.not_eq_true', ← Bool.not_eq_true,
      passBeat_at_iff s hX, List.mem_range]
    exact ⟨trivial, hlt, fun j hj => by omega⟩
  rw [planeAt, plane_eq_beats, List.find?_map, hfind, Option.map_some, Option.map_some, passBeat_lit]

end

/-- Settles O26: the pass at a pixel, with the lit predicate on the code as a number. -/
theorem planeClosedForm : Obligations.PlaneClosedForm := by
  intro s X Y h hX hY
  refine ⟨_, _, _, _, exec_redraw_free s h, rfl, ?_⟩
  rw [planeAt_plane s hX hY, lit_code, codeAt_toNat]

/-! ### The duty cycle (R151) -/

/-- The state after a REDRAW. -/
def State.redrawn (s : State) : State :=
  { s with
    alt := altNext s.alt
    redrawReq := false
    out := [.frame (plane s.cfg s.alt (memReadAll s)) true (!s.init)] }

theorem exec_redraw_redrawn (s : State) (h : s.LockFree) : exec .redraw s = .next s.redrawn := exec_redraw_free s h

/-- A REDRAW leaves the code of every pixel. -/
theorem codeAt_redrawn (s : State) (X Y : Nat) : codeAt s.redrawn X Y = codeAt s X Y := rfl

theorem altNext_altNext_altNext {a : Nat} (ha : a < 3) : altNext (altNext (altNext a)) = a := by
  simp only [altNext]; omega

/-- Three consecutive counters light a code `3 - c` times. -/
theorem lit_three (c : Code) {a : Nat} (ha : a < 3) :
    (lit (toneOf c) a).toNat + (lit (toneOf c) (altNext a)).toNat + (lit (toneOf c) (altNext (altNext a))).toNat =
      3 - c.toNat := by
  revert c
  interval_cases a <;> decide

/-- Settles O29: the three passes sample the three counters over the same codes. -/
theorem dutyCycleLaw : Obligations.DutyCycleLaw := by
  intro s X Y h ha hX hY
  refine ⟨s.redrawn, s.redrawn.redrawn, s.redrawn.redrawn.redrawn, _, _, _, _, _, _,
    exec_redraw_redrawn s h, exec_redraw_redrawn s.redrawn h, exec_redraw_redrawn s.redrawn.redrawn h, rfl, rfl, rfl,
    planeAt_plane s hX hY, planeAt_plane s.redrawn hX hY, planeAt_plane s.redrawn.redrawn hX hY, ?_,
    altNext_altNext_altNext ha⟩
  rw [← codeAt_toNat, codeAt_redrawn, codeAt_redrawn]
  exact lit_three (codeAt s X Y) ha

/-! ### What a REDRAW reads, and what it writes -/

theorem memReadAll_congr {s s' : State} (hcfg : s.cfg = s'.cfg) (hfb : ∀ a, a < s.cfg.P → fbAt s a = fbAt s' a) :
    memReadAll s = memReadAll s' := by
  rw [memReadAll, memReadAll, ← hcfg]
  exact List.map_congr_left fun a ha => hfb a (List.mem_range.mp ha)

/-- Settles O30: the one output is written from the cells read, the counter and `init`. -/
theorem redrawOutputDependsOnlyOn : Obligations.RedrawOutputDependsOnlyOn := by
  intro s s' h h' hcfg hfb hinit halt
  refine ⟨_, _, exec_redraw_redrawn s h, exec_redraw_redrawn s' h', ?_⟩
  rw [State.redrawn, State.redrawn, memReadAll_congr hcfg hfb, hcfg, halt, hinit]

/-- Settles O31: of the groups of R40, only the renderer's pass and RESET write the counter. -/
theorem alternationCounterWriters : Obligations.AlternationCounterWriters := by
  refine ⟨fun s h => ⟨_, exec_redraw_redrawn s h, rfl⟩, ?_⟩
  intro i s t h hne
  cases exec_agentWrites i s t h with
  | redraw hi => exact .inl hi
  | reset hi => exact .inr hi
  | _ => exact absurd rfl hne

end Sys2Proof.Machine
end

section
/-! PROOFS. The snapshot read port (43_snapshot_port.md): the bytes of a SNAPSHOT row by row, and counted through. -/

namespace Sys2Proof.Machine

/-- Row `y` of the copy: `MemReadAll()` is ascending (R57). -/
theorem row_memReadAll (s : State) {y : Nat} (hy : y < s.cfg.H) :
    ((memReadAll s).drop (y * s.cfg.L)).take s.cfg.L =
      (List.range s.cfg.L).map fun x => fbAt s (y * s.cfg.L + x) := by
  have hrow : y * s.cfg.L + s.cfg.L ≤ s.cfg.P :=
    calc y * s.cfg.L + s.cfg.L = s.cfg.L * (y + 1) := by rw [Nat.mul_succ, Nat.mul_comm]
      _ ≤ s.cfg.P := Nat.mul_le_mul_left _ hy
  refine List.ext_getElem ?_ fun x _ _ => by simp [getElem_memReadAll]
  simp only [List.length_take, List.length_drop, length_memReadAll, List.length_map, List.length_range]
  omega

/-- The bytes emitted, row by row (R160). -/
theorem snapshotOrder_memReadAll (s : State) :
    snapshotOrder s.cfg (memReadAll s) =
      (List.range s.cfg.H).reverse.flatMap fun y => (List.range s.cfg.L).map fun x => fbAt s (y * s.cfg.L + x) :=
  List.flatMap_congr fun _ hy => row_memReadAll s (List.mem_range.mp (List.mem_reverse.mp hy))

/-- Settles O32: each row of the copy is that row of the framebuffer. -/
theorem snapshotEffect : Obligations.SnapshotEffect := by
  intro s h
  refine ⟨false, ?_⟩
  rw [exec_snapshot_free s h, snapshotOrder_memReadAll]
  simp only [List.map_flatMap, List.map_map, Function.comp_def]

/-- The cell whose byte a SNAPSHOT emits at place `n` (R161). -/
def snapshotCell (c : Config) (n : Nat) : Nat := (c.H - 1 - n / c.L) * c.L + n % c.L

/-- The bytes emitted, counted through: the rows from the last to the first are the rows `H - 1 - i` for rising `i`. -/
theorem snapshotOrder_eq_cells (s : State) :
    snapshotOrder s.cfg (memReadAll s) = (List.range s.cfg.P).map fun n => fbAt s (snapshotCell s.cfg n) := by
  have hreverse : (List.range s.cfg.H).reverse = (List.range s.cfg.H).map (s.cfg.H - 1 - ·) := by
    conv_lhs => rw [List.range_eq_range', List.reverse_range', Nat.zero_add]
  rw [snapshotOrder_memReadAll, hreverse, List.flatMap_map]
  exact flatMap_range_map_range ..

/-- Settles O33: byte `n` is that of the `n`-th cell, and the end mark stands after the `P` bytes. -/
theorem snapshotClosedForm : Obligations.SnapshotClosedForm := by
  intro s h
  refine ⟨_, exec_snapshot_free s h, ?_⟩
  simp only [snapshotOrder_eq_cells]
  refine ⟨by simp, by simp, fun n hn => ?_⟩
  rw [List.getElem?_append_left (by simpa using hn)]
  simp [hn, snapshotCell]

end Sys2Proof.Machine
end

section
/-! PROOFS. Host and control (44_host_control.md): RESET, STOP and REFRESH_REQ, the upstream bytes, the freeze of a
stopped decoder, the end of a served request, and the operation a scheduled event brings. -/

namespace Sys2Proof.Machine

/-! ### RESET, STOP and the upstream bytes -/

/-- Settles O34: the registers at their reset values, and no cell and no slot listed, so that every read is a free value
of the new count of resets. -/
theorem resetEffect : Obligations.ResetEffect := fun s hok =>
  ⟨_, (exec_reset s).trans (operate_ok s _ hok), rfl, rfl, rfl, rfl, rfl, rfl, rfl, rfl, rfl, rfl, rfl, rfl, rfl, rfl,
    fun _ => rfl, fun _ => rfl⟩

/-- Settles O38: STOP is the one write, under no lock. -/
theorem stopEffect : Obligations.StopEffect := fun s hok => (exec_stop s).trans (operate_ok s _ hok)

/-- Settles O40: the six sequences are the operations of the upstream channel, which write nothing. -/
theorem upstreamBytesHaveNoEffect : Obligations.UpstreamBytesHaveNoEffect := by
  intro s i hok hi
  have hup : channelOf i = .upstream := by
    simp only [List.mem_cons, List.not_mem_nil, or_false] at hi
    obtain rfl | rfl | rfl | rfl | rfl | rfl := hi <;> rfl
  exact (exec_upstream i s hup).trans (operate_ok s _ hok)

/-! ### `dirty` and REFRESH_REQ -/

/-- Settles O36: whichever case of BYTE the byte is, `dirty` is set after R120's function. -/
theorem everyByteSetsDirty : Obligations.EveryByteSetsDirty := fun s b h =>
  ⟨_, exec_streamInstr_ready s b h, rfl⟩

theorem refreshEnabled_iff (s : State) :
    s.refreshEnabled = true ↔ s.dirty = true ∧ s.stopped = false ∧ s.rx = [] := by
  simp [State.refreshEnabled, State.inValid, and_assoc]

/-- REFRESH_REQ where it is enabled (R175). -/
theorem exec_refreshReq_enabled (s : State) (hok : s.cfg.ok = true) (h : s.refreshEnabled = true) :
    exec .refreshReq s = .next { s with dirty := false, out := [.refreshReq] } :=
  (operate_ok s _ hok).trans (congrArg _ (if_pos h))

/-- REFRESH_REQ where it is not enabled (R175). -/
theorem exec_refreshReq_disabled (s : State) (hok : s.cfg.ok = true)
    (h : s.dirty = false ∨ s.stopped = true ∨ s.rx ≠ []) :
    exec .refreshReq s = .next { s with out := [] } := by
  have hoff : ¬ s.refreshEnabled = true := by
    rw [refreshEnabled_iff, not_and_or, not_and_or, Bool.not_eq_true, Bool.not_eq_false]
    exact h
  exact (operate_ok s _ hok).trans (congrArg _ (if_neg hoff))

/-- Settles O37: the pulse clears `dirty`, and with it what enables a second one. -/
theorem refreshRequest : Obligations.RefreshRequest := fun s hok =>
  ⟨fun hdirty hstop hrx =>
    ⟨exec_refreshReq_enabled s hok ((refreshEnabled_iff s).mpr ⟨hdirty, hstop, hrx⟩),
      exec_refreshReq_disabled { s with dirty := false, out := [.refreshReq] } hok (.inl rfl)⟩,
    exec_refreshReq_disabled s hok⟩

/-! ### The stopped decoder (R178, R179) -/

/-- While `stopped` is set the decoder's operations do nothing: each is BYTE or a run of BYTE, which waits. -/
theorem exec_decoder_stopped (i : Instr) (s : State) (hok : s.cfg.ok = true) (hstop : s.stopped = true)
    (hi : (∃ p, channelOf i = .stream p) ∨ ∃ n, channelOf i = .record n) :
    exec i s = .next { s with out := [] } := by
  have hwait : ∀ bs : List Byte, bs.foldl (fun s b => byteStep b s) (s.emit []) = s.emit [] :=
    fun bs => foldl_byteStep_waits bs (s.emit []) (.inl hstop)
  obtain ⟨p, hp⟩ | ⟨n, hn⟩ := hi
  · obtain ⟨b, rfl⟩ | hout := exec_stream_cases i p s hp
    · rw [exec_streamInstr, operate_ok s _ hok]
      exact congrArg _ (hwait [b])
    · rw [hout, operate_ok s _ hok]
      rfl
  · obtain ⟨r, payload, rfl⟩ := eq_rowrec_of_record i n hn
    refine (operate_ok s _ hok).trans (congrArg _ ?_)
    rw [hwait, ite_self]
    rfl

/-- While `stopped` is set a grant to the decoder agent brings no operation. -/
theorem fetchEvent_grant_stopped (e : Event) (s : State) (hstop : s.stopped = true)
    (he : e = .grantDec ∨ e = .grantRecord) : fetchEvent e s = none := by
  obtain rfl | rfl := he <;> simp [fetchEvent, State.inReady, hstop]

/-- Settles O39: of the writers of these elements the decoder's operations wait, and REFRESH_REQ is not enabled; and no
grant reaches the bytes on offer. -/
theorem stoppedFreezesTheDecoder : Obligations.StoppedFreezesTheDecoder := by
  refine ⟨fun i s hok hstop hne => ?_, fun s es e hok hstop hs he => ?_⟩
  · obtain ⟨t, h⟩ := exec_next i s hok
    refine ⟨t, h, ?_⟩
    cases exec_agentWrites i s t h with
    | decoder hi =>
      cases h.symm.trans (exec_decoder_stopped i s hok hstop hi)
      exact ⟨rfl, rfl, rfl, rfl, rfl, hstop, rfl⟩
    | refreshReq hi =>
      subst hi
      cases h.symm.trans (exec_refreshReq_disabled s hok (.inr (.inl hstop)))
      exact ⟨rfl, rfl, rfl, rfl, rfl, hstop, rfl⟩
    | reset hi => exact absurd hi hne
    | stop => exact ⟨rfl, rfl, rfl, rfl, rfl, rfl, rfl⟩
    | _ => exact ⟨rfl, rfl, rfl, rfl, rfl, hstop, rfl⟩
  · rw [step_of_fetchEvent_none s e es hok hs (fetchEvent_grant_stopped e _ hstop he)]
    obtain rfl | rfl := he <;> rfl

/-! ### Served requests (R152, R165, R177) -/

/-- Settles O55: each pass, under a free lock, clears its own latch alone. -/
theorem servedRequestsEnd : Obligations.ServedRequestsEnd := fun s h =>
  ⟨⟨_, exec_redraw_free s h, rfl, rfl⟩, ⟨_, exec_snapshot_free s h, rfl, rfl⟩⟩

/-! ### The operation a scheduled event brings -/

/-- A scheduled event that brings an operation runs it. -/
theorem step_of_scheduled {s s2 : State} {e : Event} {es : List Event} {i : Instr} (hs : s.sched = e :: es)
    (hf : fetchEvent e { s with sched := es } = some (i, s2)) : step s = exec i s2 :=
  step_of_fetchEvent (by rw [State.nextEvent, hs]) hf

theorem accept_of_decode {s : State} {ch : Channel} {i : Instr} {rest : List Byte}
    (hd : decode ch s.rx = .ok (i, rest)) : s.accept ch = some (i, { s with rx := rest }) := by
  rw [State.accept, hd]

theorem apart_of_decode (s : State) {ch : Channel} {bs : List Byte} {i : Instr} (hd : decode ch bs = .ok (i, [])) :
    s.apart ch bs = some (i, s) := by
  rw [State.apart, decodeWhole, hd]
  rfl

/-- Settles O47: what each event asks for is granted, and decoded from the bytes on offer or from its own. -/
theorem stepRunsTheDecodedOperation : Obligations.StepRunsTheDecodedOperation := by
  intro s es i
  refine ⟨?_, ?_, ?_, ?_, ?_, ?_, ?_, ?_, ?_, ?_⟩
  · intro rest hstop ho hs hd
    exact step_of_scheduled hs
      ((if_pos ((inReady_iff _).mpr ⟨hstop, ho⟩)).trans (accept_of_decode (s := { s with sched := es }) hd))
  · intro rest hstop ho hc hs hd
    have hgrant : (State.inReady { s with sched := es } && decide (s.cnt ≤ 1)) = true :=
      Bool.and_eq_true_iff.mpr ⟨(inReady_iff _).mpr ⟨hstop, ho⟩, decide_eq_true hc⟩
    exact step_of_scheduled hs ((if_pos hgrant).trans (accept_of_decode (s := { s with sched := es }) hd))
  · intro hreq ho hs
    have hgrant : (s.redrawReq && s.own == .free) = true := by rw [hreq, ho]; rfl
    exact step_of_scheduled hs (if_pos hgrant)
  · intro hreq ho hs
    have hgrant : (s.snapReq && s.own == .free) = true := by rw [hreq, ho]; rfl
    exact step_of_scheduled hs (if_pos hgrant)
  · exact fun hs => step_of_scheduled hs rfl
  · exact fun hs => step_of_scheduled hs rfl
  · exact fun hs => step_of_scheduled hs rfl
  · exact fun bs hs hd => step_of_scheduled hs (apart_of_decode _ hd)
  · exact fun b hs => step_of_scheduled hs rfl
  · exact fun b hs hd => step_of_scheduled hs (apart_of_decode _ hd)

end Sys2Proof.Machine
end

section
/-! PROOFS. Exceptions (60_exceptions.md): the block raises none. -/

namespace Sys2Proof.Machine

/-- Every operation answers a next state (R190), with the parameters it started from. -/
theorem exec_next_cfg (i : Instr) (s : State) (hok : s.cfg.ok = true) : ∃ t, exec i s = .next t ∧ t.cfg = s.cfg := by
  obtain ⟨t, h⟩ := exec_next i s hok
  obtain ⟨⟨hcfg, -⟩, -⟩ := accessRights i s t h
  exact ⟨t, h, hcfg⟩

/-- An event at the interface does not touch the parameters. -/
theorem interfaceEffect_cfg (e : Event) (s : State) : (interfaceEffect e s).cfg = s.cfg := by
  rw [interfaceEffect_frame]

/-- Every step answers a next state (R190), with the parameters it started from: it idles, runs the operation fetched,
or is an event at the interface, and what comes before leaves the configuration accepted. -/
theorem step_next_cfg (s : State) (hok : s.cfg.ok = true) : ∃ t, step s = .next t ∧ t.cfg = s.cfg := by
  obtain ⟨-, -, hidle⟩ | ⟨e, s1, hnext, hev⟩ := step_cases s
  · exact ⟨_, hidle.trans (operate_ok s _ hok), rfl⟩
  · have h1 : s1.cfg = s.cfg := nextEvent_cfg s s1 e hnext
    obtain ⟨i, s2, hfetch, hexec⟩ | ⟨-, heffect⟩ := hev
    · have h2 : s2.cfg = s.cfg := (fetchEvent_cfg e s1 s2 i hfetch).trans h1
      obtain ⟨t, ht, hcfg⟩ := exec_next_cfg i s2 (by rwa [h2])
      exact ⟨t, hexec.trans ht, hcfg.trans h2⟩
    · exact ⟨_, heffect.trans (operate_ok s1 _ (by rwa [h1])), (interfaceEffect_cfg e _).trans h1⟩

/-- Settles O45: every step comes down to the common frame of an operation, which under an accepted configuration
answers a next state. -/
theorem everyStepAnswersNext : Obligations.EveryStepAnswersNext := fun s hok =>
  ⟨step_next_cfg s hok, fun i => exec_next_cfg i s hok⟩

end Sys2Proof.Machine
end
